-- ==== Sys2Proof/Word.lean ====
section
/-! DEFINITION. The two unsigned types of the datapath (00_scope.md R5, R7).
Everything is unsigned, and `+` on a `Word` is addition modulo 2^32 (40_primitives.md R120). -/

namespace Sys2Proof

/-- u32 of R7. -/
abbrev Word := BitVec 32

/-- u8 of R7. -/
abbrev Byte := BitVec 8

end Sys2Proof
end

