-- ==== Sys2Proof/Machine/Primitives.lean ====
section
/-! DEFINITION. The combinational functions of 40_primitives.md. None writes a flag, none can fault. -/

namespace Sys2Proof.Machine

/-- R120: addition modulo 2^32; the carry is dropped. `+` on `Word` is this operation. -/
def add32 (x y : Word) : Word := BitVec.ofNat 32 (x.toNat + y.toNat)

/-- R121: circular right rotation by `n` in [1,31]; there is no rotation by another amount (92_eei_decisions.md D22,
93_implementation_defined.md U15). -/
def rotr (x : Word) (n : Nat) (_ : 1 ≤ n ∧ n ≤ 31 := by decide) : Word := (x >>> n) ||| (x <<< (32 - n))

/-- R122: logical right shift by 3 or 10; there is no shift by another amount (93_implementation_defined.md U15). -/
def shr (x : Word) (n : Nat) (_ : n = 3 ∨ n = 10 := by decide) : Word := x >>> n

/-- R124: the source's σ0. -/
def ssig0 (x : Word) : Word := rotr x 7 ^^^ rotr x 18 ^^^ shr x 3

/-- R125: the source's σ1. -/
def ssig1 (x : Word) : Word := rotr x 17 ^^^ rotr x 19 ^^^ shr x 10

/-- R126: the source's Σ0. -/
def bsig0 (x : Word) : Word := rotr x 2 ^^^ rotr x 13 ^^^ rotr x 22

/-- R127: the source's Σ1. -/
def bsig1 (x : Word) : Word := rotr x 6 ^^^ rotr x 11 ^^^ rotr x 25

/-- R128: choose. -/
def ch (x y z : Word) : Word := (x &&& y) ^^^ (~~~x &&& z)

/-- R129: majority. -/
def maj (x y z : Word) : Word := (x &&& y) ^^^ (x &&& z) ^^^ (y &&& z)

/-- R131: four bytes, most significant first, as a word; bytes are zero-extended. -/
def be32 (b0 b1 b2 b3 : Byte) : Word :=
  (b0.setWidth 32 <<< 24) ||| (b1.setWidth 32 <<< 16) ||| (b2.setWidth 32 <<< 8) ||| b3.setWidth 32

/-- R132: the 8 bytes of a u64, most significant first. -/
def be64bytes (x : BitVec 64) : List Byte :=
  [x.extractLsb' 56 8, x.extractLsb' 48 8, x.extractLsb' 40 8, x.extractLsb' 32 8,
   x.extractLsb' 24 8, x.extractLsb' 16 8, x.extractLsb' 8 8, x.extractLsb' 0 8]

/-- R133: the 4 bytes of a word, most significant first. -/
def wordBytes (x : Word) : List Byte :=
  [x.extractLsb' 24 8, x.extractLsb' 16 8, x.extractLsb' 8 8, x.extractLsb' 0 8]

/-- R162: the sum of the schedule recurrence, from the words at distance 2, 7, 15 and 16. -/
def schedTerm (w2 w7 w15 w16 : Word) : Word := ssig1 w2 + w7 + ssig0 w15 + w16

/-- R102: the character code of a nibble, `0123456789abcdef`. -/
def hexCode (n : BitVec 4) : Byte :=
  if n.toNat < 10 then BitVec.ofNat 8 (0x30 + n.toNat) else BitVec.ofNat 8 (0x61 + (n.toNat - 10))

/-- R102: the two characters of a byte, high nibble first. -/
def hexByte (b : Byte) : List Byte := [hexCode (b.extractLsb' 4 4), hexCode (b.extractLsb' 0 4)]

end Sys2Proof.Machine
end

