-- ==== Sys2Proof/Machine/Contract.lean ====
section
/-! DEFINITION. The pure functions that are the normative level of the spec (00_scope.md R12): `pad`, `schedule`,
`compress` and `hash`. A message is a length `L` and its bytes as a function of the index; only the bytes below `L`
are ever looked at. The micro-operations use `padByteOf` and `round`; everything else here is what the commands are
stated against.

DESIGN CHOICE (log entry 25): these functions are total. Outside the domain the spec gives them (L >= 2^61, an index that
is none) their value is the model's, and nothing is claimed of it. -/

namespace Sys2Proof.Machine

/-- R141: plen(L), the padded length in bytes. -/
def plenOf (L : Nat) : Nat := 64 * ((L + 72) / 64)

/-- R141: N(L), the number of blocks. -/
def blocksOf (L : Nat) : Nat := plenOf L / 64

/-- R141: z(L), the number of zero-fill bytes. -/
def zeroFillOf (L : Nat) : Nat := plenOf L - L - 9

/-- R142, with the padded length `P` as an operand, as U_PADBYTE has it (R145): the byte of the range `i` falls into,
or nothing where the last range has no byte for it. DESIGN CHOICE (log entry 8): R142 and R145 have i < P and P >= 64;
for other operands the ranges are read as they stand, with P - 8 = 0 for P below 8. DESIGN CHOICE (log entry 25): R140
does not define pad for L >= 2^61, and R146 says that the bit length is never wrapped; there this takes 8 * L modulo
2^64, in a length field that no command writes. -/
def padByteOf (m : Nat → Byte) (L P i : Nat) : Option Byte :=
  if i < L then some (m i)
  else if i = L then some 0x80
  else if i < P - 8 then some 0x00
  else (be64bytes (BitVec.ofNat 64 (8 * L)))[i - (P - 8)]?

/-- R142: padbyte(m, i), for L < 2^61 and 0 <= i < plen(L); 0 for a larger `i`, which no rule uses (log entry 25). -/
def padbyte (m : Nat → Byte) (L i : Nat) : Byte := (padByteOf m L (plenOf L) i).getD 0

/-- R140: pad(m), as the list of its bytes. Not defined by the spec for L >= 2^61 (log entry 25). -/
def pad (m : Nat → Byte) (L : Nat) : List Byte := (List.range (plenOf L)).map (padbyte m L)

/-- R161, R162: word `t` of schedule(x), 0 <= t <= 63, for a block `x` given by its bytes 0 to 63. (The recurrence goes on
for a larger `t`, which no rule uses; log entry 25.) -/
def schedule (x : Nat → Byte) : Nat → Word
  | 0 => be32 (x 0) (x 1) (x 2) (x 3)
  | 1 => be32 (x 4) (x 5) (x 6) (x 7)
  | 2 => be32 (x 8) (x 9) (x 10) (x 11)
  | 3 => be32 (x 12) (x 13) (x 14) (x 15)
  | 4 => be32 (x 16) (x 17) (x 18) (x 19)
  | 5 => be32 (x 20) (x 21) (x 22) (x 23)
  | 6 => be32 (x 24) (x 25) (x 26) (x 27)
  | 7 => be32 (x 28) (x 29) (x 30) (x 31)
  | 8 => be32 (x 32) (x 33) (x 34) (x 35)
  | 9 => be32 (x 36) (x 37) (x 38) (x 39)
  | 10 => be32 (x 40) (x 41) (x 42) (x 43)
  | 11 => be32 (x 44) (x 45) (x 46) (x 47)
  | 12 => be32 (x 48) (x 49) (x 50) (x 51)
  | 13 => be32 (x 52) (x 53) (x 54) (x 55)
  | 14 => be32 (x 56) (x 57) (x 58) (x 59)
  | 15 => be32 (x 60) (x 61) (x 62) (x 63)
  | t + 16 => schedTerm (schedule x (t + 14)) (schedule x (t + 9)) (schedule x (t + 1)) (schedule x t)

/-- R182: one round on the working variables a..h, with round constant `k` and schedule word `x`. -/
def round (v : Vector Word 8) (k x : Word) : Vector Word 8 :=
  let a := v[0]; let b := v[1]; let c := v[2]; let d := v[3]
  let e := v[4]; let f := v[5]; let g := v[6]; let h := v[7]
  let t1 := h + bsig1 e + ch e f g + k + x
  let t2 := bsig0 a + maj a b c
  #v[t1 + t2, a, b, c, d + t1, e, f, g]

/-- R180: the working variables after the first `n` rounds, n <= 64, from the state `s` (R181). (A larger `n`, which no rule
uses, takes K from its beginning again; log entry 25.) -/
def rounds (s : Vector Word 8) (w : Nat → Word) : Nat → Vector Word 8
  | 0 => s
  | n + 1 => round (rounds s w n) (Rom.k (BitVec.ofNat 6 n)) (w n)

/-- R183: word by word addition. -/
def fold (s v : Vector Word 8) : Vector Word 8 :=
  #v[s[0] + v[0], s[1] + v[1], s[2] + v[2], s[3] + v[3], s[4] + v[4], s[5] + v[5], s[6] + v[6], s[7] + v[7]]

/-- R180: compress(s, w). -/
def compress (s : Vector Word 8) (w : Nat → Word) : Vector Word 8 := fold s (rounds s w 64)

/-- R200: block `k` of pad(m), by the index of its bytes. -/
def blockOf (m : Nat → Byte) (L k : Nat) : Nat → Byte := fun j => padbyte m L (64 * k + j)

/-- R200: the state after the first `n` blocks of pad(m). -/
def hashBlocks (m : Nat → Byte) (L : Nat) : Nat → Vector Word 8
  | 0 => Rom.h0
  | n + 1 => compress (hashBlocks m L n) (schedule (blockOf m L n))

/-- R200: hash_words(m), for L < 2^61. DESIGN CHOICE (log entry 25): R200 gives hash no value for L >= 2^61, where this
is the hash of a padding whose bit length is taken modulo 2^64; no command computes it (R245), and every statement
keeps to L < 2^61. -/
def hashWords (m : Nat → Byte) (L : Nat) : Vector Word 8 := hashBlocks m L (blocksOf L)

/-- R101: the 32 digest bytes of eight words. -/
def digestBytes (s : Vector Word 8) : List Byte :=
  wordBytes s[0] ++ wordBytes s[1] ++ wordBytes s[2] ++ wordBytes s[3] ++
    wordBytes s[4] ++ wordBytes s[5] ++ wordBytes s[6] ++ wordBytes s[7]

/-- R102: the 64 character codes of eight words. -/
def hexCodes (s : Vector Word 8) : List Byte := (digestBytes s).flatMap hexByte

/-- R39: the 256-bit DIGEST view, H[0] in the most significant position. -/
def digestView (s : Vector Word 8) : BitVec 256 := s[0] ++ s[1] ++ s[2] ++ s[3] ++ s[4] ++ s[5] ++ s[6] ++ s[7]

/-- R39: bytes put together, the first in the most significant position, as a number. -/
def bytesToNat (bs : List Byte) : Nat := bs.foldl (fun acc b => acc * 256 + b.toNat) 0

/-- R39, R102: the 512-bit HEX view, the first character in the most significant byte. -/
def hexView (s : Vector Word 8) : BitVec 512 := BitVec.ofNat 512 (bytesToNat (hexCodes s))

/-- The bytes of a message given as a list, by index; what stands beyond its length is never looked at. -/
def bytesOf (bs : List Byte) : Nat → Byte := fun i => bs.getD i 0

end Sys2Proof.Machine
end

