-- ==== Sys2Proof/Config.lean ====
section
/-! DEFINITION. What the spec leaves to the platform: the two capacities of 00_scope.md R6, and the values it
declares unspecified (00_scope.md R10, 93_implementation_defined.md U5 to U10), which are constants without a
body, so that nothing can be proved of them. -/

namespace Sys2Proof

/-- The open parameters of R6 and 92_eei_decisions.md D7; `none` is "unbounded". They are plain data, so that
State can carry them (log entry 3: the form of `exec` leaves no other place for an argument). -/
structure Params where
  /-- MSG_BYTES: the number of byte locations of the MSG space. -/
  msgBytes : Option Nat
  /-- PB_BYTES: the number of byte locations of the PB space. -/
  pbBytes : Option Nat
deriving DecidableEq, Repr

/-- FREE VALUE (DESIGN CHOICE, safe; log entries 4 and 5): `width` bits the spec does not fix. `fresh` is the
counter of State, so that two reads may differ (R10); `slot` tells the values of one step apart. -/
opaque Config.freeBits (fresh slot width : Nat) : BitVec width

/-- FREE VALUE (DEDUCED, log entry 6): what the MSG byte at `addr` holds after the `epoch`-th reset until the HOST
writes it (10_state.md R44, 92_eei_decisions.md D28). -/
opaque Config.msgUnwritten (epoch addr : Nat) : Byte

end Sys2Proof
end

