-- ==== Sys2Proof/Syntax.lean ====
section
/-! DEFINITION. The thirteen rows of spec/opcode_table.json. No row carries an operand: commands and
micro-operations take their operands from registers and memory (30_encoding.md R93). -/

namespace Sys2Proof

/-- The five commands the HOST writes to CMD (30_encoding.md R91) and the eight micro-operations PHASE selects
(R95). -/
inductive Instr where
  /-- INIT, 44_digest_engine.md R205 -/
  | init
  /-- PAD, 41_padding.md R144 -/
  | pad
  /-- SCHEDULE, 42_schedule.md R163 -/
  | schedule
  /-- COMPRESS, 43_compress.md R186 -/
  | compress
  /-- HASH, 44_digest_engine.md R207 -/
  | hash
  /-- U_INIT, 44_digest_engine.md R206 -/
  | uInit
  /-- U_PADBYTE, 41_padding.md R145 -/
  | uPadbyte
  /-- U_LOADW, 42_schedule.md R164 -/
  | uLoadw
  /-- U_EXPAND, 42_schedule.md R165 -/
  | uExpand
  /-- U_LOADV, 43_compress.md R187 -/
  | uLoadv
  /-- U_ROUND, 43_compress.md R184 -/
  | uRound
  /-- U_FOLD, 43_compress.md R188 -/
  | uFold
  /-- U_DISCARD, 44_digest_engine.md R208 -/
  | uDiscard
deriving DecidableEq, Repr

end Sys2Proof
end

