-- ==== Sys2Proof/WellFormed.lean ====
section
/-! DEFINITION. What must hold of a term for the spec to speak of it. -/

namespace Sys2Proof

/-- Every instruction is well-formed: no row of the table has an operand field that could hold a bad value
(30_encoding.md R90, R93, R95). -/
def Instr.wf (_ : Instr) : Bool := true

/-- R6: PB_BYTES is a multiple of 64 and at least 64, or unbounded; MSG_BYTES is any natural number. -/
def Params.wf (p : Params) : Bool :=
  match p.pbBytes with
  | none => true
  | some n => decide (64 ≤ n) && decide (n % 64 = 0)

end Sys2Proof
end

