-- ==== Sys2Proof/Decode.lean ====
section
/-! DEFINITION. The decoder of command words and of phase codes (30_encoding.md R90 to R96), and after it the
encoder, written from the tables of R91 and R95. -/

namespace Sys2Proof

/-- The two places an operation code stands in: a word written to CMD (format C) or the PHASE register (format U). -/
inductive Encoded where
  | command (word : BitVec 32)
  | phase (code : BitVec 4)
deriving DecidableEq, Repr

/-- Why no instruction is read from a code. -/
inductive DecodeError where
  /-- A command word other than the five (R92); the engine raises IllegalCommand. -/
  | illegalCommand
  /-- PHASE = IDLE (R95): the ENGINE has no step. -/
  | idlePhase
  /-- PHASE = FAULTED (R95): the ENGINE has no step, ever. -/
  | faultedPhase
  /-- PHASE codes 9 to 14, never written (R96): treated as FAULTED. -/
  | reservedPhase
deriving DecidableEq, Repr

/-! Opcodes, as CUR holds them (R91), and phase codes (R95). -/

abbrev Op.init : BitVec 4 := 1#4
abbrev Op.pad : BitVec 4 := 2#4
abbrev Op.schedule : BitVec 4 := 3#4
abbrev Op.compress : BitVec 4 := 4#4
abbrev Op.hash : BitVec 4 := 5#4

abbrev Phase.idle : BitVec 4 := 0#4
abbrev Phase.init : BitVec 4 := 1#4
abbrev Phase.padbyte : BitVec 4 := 2#4
abbrev Phase.loadw : BitVec 4 := 3#4
abbrev Phase.expand : BitVec 4 := 4#4
abbrev Phase.loadv : BitVec 4 := 5#4
abbrev Phase.round : BitVec 4 := 6#4
abbrev Phase.fold : BitVec 4 := 7#4
abbrev Phase.discard : BitVec 4 := 8#4
abbrev Phase.faulted : BitVec 4 := 15#4

/-- R91, R92, R106: the match is on all 32 bits. -/
def decodeCommand (w : BitVec 32) : Except DecodeError Instr :=
  if w = 0x00000001#32 then .ok .init
  else if w = 0x00000002#32 then .ok .pad
  else if w = 0x00000003#32 then .ok .schedule
  else if w = 0x00000004#32 then .ok .compress
  else if w = 0x00000005#32 then .ok .hash
  else .error .illegalCommand

/-- R95, R96: the match is on all four bits of PHASE. -/
def decodePhase (p : BitVec 4) : Except DecodeError Instr :=
  if p = Phase.init then .ok .uInit
  else if p = Phase.padbyte then .ok .uPadbyte
  else if p = Phase.loadw then .ok .uLoadw
  else if p = Phase.expand then .ok .uExpand
  else if p = Phase.loadv then .ok .uLoadv
  else if p = Phase.round then .ok .uRound
  else if p = Phase.fold then .ok .uFold
  else if p = Phase.discard then .ok .uDiscard
  else if p = Phase.idle then .error .idlePhase
  else if p = Phase.faulted then .error .faultedPhase
  else .error .reservedPhase

/-- The decoder over both places; total. -/
def decode : Encoded → Except DecodeError Instr
  | .command w => decodeCommand w
  | .phase p => decodePhase p

/-- The encoder: the "command word" column of R91 and the "PHASE code" column of R95. -/
def encode : Instr → Encoded
  | .init => .command 0x00000001#32
  | .pad => .command 0x00000002#32
  | .schedule => .command 0x00000003#32
  | .compress => .command 0x00000004#32
  | .hash => .command 0x00000005#32
  | .uInit => .phase 1#4
  | .uPadbyte => .phase 2#4
  | .uLoadw => .phase 3#4
  | .uExpand => .phase 4#4
  | .uLoadv => .phase 5#4
  | .uRound => .phase 6#4
  | .uFold => .phase 7#4
  | .uDiscard => .phase 8#4

/-- Where the `nbits`-bit word `w` of the opcode table stands: a row of at most 8 bits is a phase code (format U, 4
bits), a longer one a command word (format C, 32 bits). A word with a bit above its format's width stands nowhere. -/
def tableWord (nbits w : Nat) : Option Encoded :=
  if nbits ≤ 8 then
    if w < 2 ^ 4 then some (.phase (BitVec.ofNat 4 w)) else none
  else
    if w < 2 ^ 32 then some (.command (BitVec.ofNat 32 w)) else none

/-- What the decoder reads from a word numbered as the opcode table numbers it. A command word moves over the
register port whole (10_state.md R30) and PHASE is one register, so there is no byte order to lay out. -/
def decodeTableWord (nbits w : Nat) : Option Instr :=
  match tableWord nbits w with
  | none => none
  | some e =>
    match decode e with
    | .ok i => some i
    | .error _ => none

end Sys2Proof
end

