-- ==== Sys2Proof/Machine/State.lean ====
section
/-! DEFINITION. The state of one engine, its HOST and its two memory spaces, as plain data: everything 10_state.md
names, less what R45 says is not state. -/

namespace Sys2Proof.Machine

/-- A byte space (20_memory.md R60): the bytes that hold a value, at strictly rising addresses. An address that is
not listed holds no recorded value (`none`), and a listed one always does, so no entry equals what an unlisted
address reads as. -/
abbrev Memory := List Host.Cell

/-- What an unlisted address of a space reads as: no value. Who reads it says what follows: an unwritten MSG byte is
a free byte (log entry 6), an undefined PB byte a free byte (log entry 4). -/
abbrev Memory.unlisted : Option Byte := none

/-- A 32-bit register of H, V or W with its valid bit: a u32, or `none` for undef (00_scope.md R10, 10_state.md R26). -/
abbrev Reg := Option Word

/-- What can still happen at the HOST's side (30_encoding.md R104), and when the ENGINE moves meanwhile. -/
inductive HostEvent where
  /-- `WR reg, value`: HOST write of register number `reg` (10_state.md R30). -/
  | wr (reg : Nat) (value : BitVec 64)
  /-- `RD reg`: HOST read of register number `reg`. -/
  | rd (reg : Nat)
  /-- `MSGW addr, byte`: HOST write of one MSG byte. -/
  | msgw (addr : Nat) (byte : Byte)
  /-- HOST read of one MSG byte (10_state.md R40; R104 has no statement for it). -/
  | msgr (addr : Nat)
  /-- `PBR addr`: HOST read of one PB byte. -/
  | pbr (addr : Nat)
  /-- `WAIT`: repeat `RD STATUS` until BUSY = 0; the ENGINE has a turn after each read that shows BUSY = 1 (log entry
  12). -/
  | wait
  /-- One turn of the ENGINE (20_memory.md R72: an execution interleaves HOST accesses and micro-operations). -/
  | engine
  /-- `RESET`: the platform's reset (70_reset_and_hazards.md R280). -/
  | reset
deriving DecidableEq, Repr

/-- A value that moved over a port, with its width. -/
structure PortValue where
  width : Nat
  value : BitVec width
deriving DecidableEq, Repr

/-- The seven causes of 60_exceptions.md R242. Taking one is a NEXT state (`State.raise`), not a stop of the model. -/
inductive Cause where
  /-- code 1, R243 -/
  | busyViolation
  /-- code 2, R244 -/
  | illegalCommand
  /-- code 3, R245 -/
  | lengthOverflow
  /-- code 4, R246 -/
  | messageRange
  /-- code 5, R247 -/
  | padBufferExhausted
  /-- code 6, R248 -/
  | undefinedOperand
  /-- code 7, R249 -/
  | blockIndexRange
deriving DecidableEq, Repr

/-- The state of the machine. Field by field: INVENTORY.md, '## State'. -/
structure State where
  /-- MSG_BYTES and PB_BYTES (R6): parameters, changed by nothing (log entry 3). -/
  par : Params
  /-- H[0..7], the Hash State (R21). -/
  h : Vector Reg 8
  /-- V[0..7] = a..h, the working variables (R22). -/
  v : Vector Reg 8
  /-- W[0..63], the Message Schedule (R23). -/
  w : Vector Reg 64
  /-- MSG (R40): the bytes the HOST has written since reset. -/
  msg : Memory
  /-- PB (R41): the bytes of the Padded Buffer that hold a value. -/
  pb : Memory
  /-- MLEN (R34) -/
  mlen : BitVec 64
  /-- ARG (R35) -/
  arg : BitVec 64
  /-- PLEN (R36) -/
  plen : BitVec 64
  /-- STATUS.BUSY (R32) -/
  busy : Bool
  /-- STATUS.DONE (R32) -/
  done : Bool
  /-- STATUS.FAULT (R32) -/
  fault : Bool
  /-- STATUS.PBV (R26, R32) -/
  pbv : Bool
  /-- FCAUSE bits 3:0 (R33); bits 31:4 read as 0. -/
  fcause : BitVec 4
  /-- CUR (R37) -/
  cur : BitVec 4
  /-- PHASE (R37) -/
  phase : BitVec 4
  /-- BLK (R37) -/
  blk : BitVec 56
  /-- T (R37) -/
  t : BitVec 6
  /-- PIDX (R37) -/
  pidx : BitVec 64
  /-- What is still to happen at the HOST's side, oldest first (log entry 1). -/
  host : List HostEvent
  /-- The values HOST reads returned, oldest first (R104). -/
  results : List PortValue
  /-- The MODEL's own: the next free values (log entry 4). -/
  fresh : Nat
  /-- The MODEL's own: the number of resets so far (log entry 6). -/
  epoch : Nat
deriving DecidableEq, Repr

/-- Reasons the model would stop for. There are none: the spec gives every instruction an effect in every state, and
its own seven faults are next states (log entry 10). -/
inductive Fault where
deriving DecidableEq, Repr

/-- Reasons for refusing an instruction. -/
inductive Refusal where
  /-- Raised by an arm of `exec` without a meaning (safe). No arm raises it: every instruction has its meaning. -/
  | notModelled (mnemonic : String)
deriving DecidableEq, Repr

/-- 10_state.md R44. `par` unbounded, and the fields the spec does not give (`host`, `results`, `fresh`, `epoch`), are
DESIGN CHOICES (log entries 3 and 18). -/
def State.reset : State where
  par := { msgBytes := none, pbBytes := none }
  h := Vector.replicate 8 none
  v := Vector.replicate 8 none
  w := Vector.replicate 64 none
  msg := []
  pb := []
  mlen := 0
  arg := 0
  plen := 0
  busy := false
  done := false
  fault := false
  pbv := false
  fcause := 0
  cur := 0
  phase := Phase.idle
  blk := 0
  t := 0
  pidx := 0
  host := []
  results := []
  fresh := 0
  epoch := 0

end Sys2Proof.Machine
end

