-- ==== Sys2Proof/Machine/Ops.lean ====
section
/-! DEFINITION. The named operations every meaning is made of: memory, register writes, the sequencer, fault entry
(60_exceptions.md R250) and the way out of it (70_reset_and_hazards.md R280). -/

namespace Sys2Proof.Machine

/-! Memory (20_memory.md R60). -/

/-- The byte recorded at an address, or `Memory.unlisted`. -/
def Memory.read : Memory → Nat → Option Byte
  | [], _ => Memory.unlisted
  | (a, b) :: m, i => if a = i then some b else Memory.read m i

/-- Record a byte at an address, in address order. -/
def Memory.write : Memory → Nat → Byte → Memory
  | [], i, x => [(i, x)]
  | (a, b) :: m, i, x =>
    if i < a then (i, x) :: (a, b) :: m
    else if i = a then (i, x) :: m
    else (a, b) :: Memory.write m i x

/-- The canonical form: addresses strictly rising. (A listed byte is never `Memory.unlisted`.) -/
def Memory.wf : Memory → Bool
  | [] => true
  | [_] => true
  | c :: d :: m => decide (c.1 < d.1) && Memory.wf (d :: m)

/-! Capacities (00_scope.md R6): a bound, or none. -/

/-- Whether address `a` is one of the byte locations of a space of capacity `cap` (20_memory.md R68, R69). -/
def inSpace (cap : Option Nat) (a : Nat) : Bool :=
  match cap with
  | none => true
  | some n => decide (a < n)

/-- Whether `n` bytes are more than a space of capacity `cap` holds (60_exceptions.md R246, R247). -/
def exceeds (cap : Option Nat) (n : Nat) : Bool :=
  match cap with
  | none => false
  | some c => decide (c < n)

/-! Register writes. A write with a value sets the register's valid bit (10_state.md R26). -/

/-- Eight words as eight defined registers. -/
def defined8 (x : Vector Word 8) : Vector Reg 8 :=
  #v[some x[0], some x[1], some x[2], some x[3], some x[4], some x[5], some x[6], some x[7]]

/-- `H[j] <- x`. -/
def State.setH (s : State) (j : Fin 8) (x : Word) : State := { s with h := s.h.set j (some x) }

/-- `W[t] <- x`. -/
def State.setW (s : State) (t : BitVec 6) (x : Word) : State := { s with w := s.w.set t.toNat (some x) t.isLt }

/-- `for j = 0..7: H[j] <- x[j]`, simultaneously. -/
def State.setAllH (s : State) (x : Vector Word 8) : State := { s with h := defined8 x }

/-- `for j = 0..7: V[j] <- x[j]`, simultaneously. -/
def State.setAllV (s : State) (x : Vector Word 8) : State := { s with v := defined8 x }

/-- `for t = 0..63: W[t] <- undef; for j = 0..7: V[j] <- undef` (44_digest_engine.md R208, 60_exceptions.md R250). -/
def State.undefineVW (s : State) : State :=
  { s with v := Vector.replicate 8 none, w := Vector.replicate 64 none }

/-- `PBV <- 0`: the whole Padded Buffer becomes undef (R208, R250; at acceptance of PAD and HASH, log entry 7). -/
def State.discardPB (s : State) : State := { s with pbv := false, pb := [] }

/-! The sequencer. -/

/-- `PHASE <- p` (00_scope.md R9). -/
def State.goto (s : State) (p : BitVec 4) : State := { s with phase := p }

/-- `complete()`, 44_digest_engine.md R214. -/
def State.complete (s : State) : State := { s with busy := false, done := true, phase := Phase.idle }

/-- `CUR <- op; BUSY <- 1; DONE <- 0`: what every acceptance does (44_digest_engine.md R210 step 5). -/
def State.accept (s : State) (op : BitVec 4) : State := { s with cur := op, busy := true, done := false }

/-- The next step reads other free values (log entry 4). -/
def State.tick (s : State) : State := { s with fresh := s.fresh + 1 }

/-- The HOST's statements that are still to happen. -/
def State.setHost (s : State) (l : List HostEvent) : State := { s with host := l }

/-! Faults. -/

/-- The codes of 60_exceptions.md R242. -/
def Cause.code : Cause → BitVec 4
  | .busyViolation => 1
  | .illegalCommand => 2
  | .lengthOverflow => 3
  | .messageRange => 4
  | .padBufferExhausted => 5
  | .undefinedOperand => 6
  | .blockIndexRange => 7

/-- TAKING A FAULT, `raise <Fault>` (60_exceptions.md R250): the one fault entry of the machine. -/
def State.raise (s : State) (c : Cause) : State :=
  { s with
    fault := true
    fcause := c.code
    busy := false
    done := false
    phase := Phase.faulted
    h := Vector.replicate 8 none
    v := Vector.replicate 8 none
    w := Vector.replicate 64 none
    pbv := false
    pb := [] }

/-- RESET (70_reset_and_hazards.md R280), the only way out of FAULTED (60_exceptions.md R252): the values of 10_state.md
R44, with MSG unspecified anew. The parameters are not touched (10_state.md R45), and neither is the HOST, which is another agent
(log entry 17). -/
def State.applyReset (s : State) : State :=
  { State.reset with
    par := s.par
    host := s.host
    results := s.results
    fresh := s.fresh
    epoch := s.epoch + 1 }

/-! Engine conditions (10_state.md R43). -/

/-- FAULT = 0 and BUSY = 0. -/
def State.idle (s : State) : Bool := !s.fault && !s.busy

/-- A HOST write that is legal only when idle: the order of 44_digest_engine.md R210 steps 1 and 2 and 10_state.md R43.
FAULT = 1: no effect; BUSY = 1: BusyViolation, and the write is dropped; idle: `t`. -/
def State.whenIdle (s t : State) : State :=
  if s.fault then s
  else if s.busy then s.raise .busyViolation
  else t

/-- Acceptance, 44_digest_engine.md R210 steps 1, 2, 4 and 5: `check` is the outcome of the command's checks of R211, and
`accepted` the state after its own acceptance writes. -/
def State.issue (s : State) (check : Option Cause) (accepted : State) : State :=
  s.whenIdle (match check with
    | some c => s.raise c
    | none => accepted)

end Sys2Proof.Machine
end

