-- ==== Sys2Proof/Machine/Operands.lean ====
section
/-! DEFINITION. Every operand form of the machine: registers that may be undef, MSG bytes, the byte a U_PADBYTE step
writes, PB words. A micro-operation whose operand is undef occurs in no reachable state (60_exceptions.md R241; the
acceptance checks of 44_digest_engine.md R211 exclude it); where it is looked at anyway, undef reads as a free value
(00_scope.md R10; log entry 4). -/

namespace Sys2Proof.Machine

/-- Free bits of this step (log entries 4 and 5). -/
def State.free (s : State) (slot width : Nat) : BitVec width := Config.freeBits s.fresh slot width

/-- `H[j]`; the slot of an undef register is its register number (10_state.md R30). -/
def State.readH (s : State) (j : Fin 8) : Word := s.h[j].getD (s.free (0x10 + j.val) 32)

/-- `V[j]`. -/
def State.readV (s : State) (j : Fin 8) : Word := s.v[j].getD (s.free (0x18 + j.val) 32)

/-- `W[t]`. -/
def State.readW (s : State) (t : BitVec 6) : Word := (s.w[t.toNat]'t.isLt).getD (s.free (0x40 + t.toNat) 32)

/-- `H[0..7]`. -/
def State.allH (s : State) : Vector Word 8 :=
  #v[s.readH 0, s.readH 1, s.readH 2, s.readH 3, s.readH 4, s.readH 5, s.readH 6, s.readH 7]

/-- `V[0..7]`, that is a, b, c, d, e, f, g, h. -/
def State.allV (s : State) : Vector Word 8 :=
  #v[s.readV 0, s.readV 1, s.readV 2, s.readV 3, s.readV 4, s.readV 5, s.readV 6, s.readV 7]

/-- The MSG byte at an address (10_state.md R40): what the HOST wrote there, or the unspecified byte that stands there
since reset (R44, 92_eei_decisions.md D28; log entry 6). -/
def State.msgByte (s : State) (a : Nat) : Byte := (s.msg.read a).getD (Config.msgUnwritten s.epoch a)

/-- The PB byte at an address, for the ENGINE (20_memory.md R60). -/
def State.pbByte (s : State) (a : Nat) : Byte := (s.pb.read a).getD (s.free a 8)

/-- The byte U_PADBYTE writes (41_padding.md R145), in the range of the pseudocode that PIDX falls into. DESIGN CHOICE
(log entry 8), in no reachable state: for PIDX at or above PLEN the first two ranges still give the MSG byte and 0x80,
and where the length field has no byte for PIDX the byte is free; PLEN - 8 is 0 for PLEN below 8. For MLEN at or above
2^61, in no reachable PADBYTE state either, see `padByteOf` (log entry 25). -/
def State.padOperand (s : State) : Byte :=
  (padByteOf s.msgByte s.mlen.toNat s.plen.toNat s.pidx.toNat).getD (s.free s.pidx.toNat 8)

/-- The effective address of U_LOADW, 64*BLK + 4*T, a natural number (42_schedule.md R164). -/
def State.wordAddr (s : State) : Nat := 64 * s.blk.toNat + 4 * s.t.toNat

/-- `be32` of `MemRead(PB, a, 4)` (20_memory.md R61, R66). -/
def State.pbWord (s : State) (a : Nat) : Word :=
  be32 (s.pbByte a) (s.pbByte (a + 1)) (s.pbByte (a + 2)) (s.pbByte (a + 3))

/-- The word U_EXPAND derives (42_schedule.md R165), from W[t-2], W[t-7], W[t-15], W[t-16]. For T below 16, which occurs
in no reachable state, those registers do not exist, and the word is free (log entry 8). -/
def State.expandOperand (s : State) : Word :=
  if 16 ≤ s.t.toNat then
    schedTerm (s.readW (s.t - 2)) (s.readW (s.t - 7)) (s.readW (s.t - 15)) (s.readW (s.t - 16))
  else s.free (0x40 + s.t.toNat) 32

end Sys2Proof.Machine
end

