-- ==== Sys2Proof/Machine/Flags.lean ====
section
/-! DEFINITION. The flags: the STATUS bits (10_state.md R32) and the acceptance checks computed from them and from the
lengths (44_digest_engine.md R211). There are no arithmetic flags. -/

namespace Sys2Proof.Machine

/-- R26: all registers of a file are defined. -/
def allDefined {n : Nat} (file : Vector Reg n) : Bool := file.toList.all Option.isSome

/-- STATUS.HV -/
def State.hv (s : State) : Bool := allDefined s.h

/-- STATUS.WV -/
def State.wv (s : State) : Bool := allDefined s.w

/-- STATUS.VV -/
def State.vv (s : State) : Bool := allDefined s.v

/-- The layout of R32: bits 31:7 zero, then PBV, VV, WV, HV, FAULT, DONE, BUSY. -/
def statusWord (pbv vv wv hv fault done busy : Bool) : BitVec 32 :=
  0#25 ++ BitVec.ofBool pbv ++ BitVec.ofBool vv ++ BitVec.ofBool wv ++ BitVec.ofBool hv ++
    BitVec.ofBool fault ++ BitVec.ofBool done ++ BitVec.ofBool busy

/-- What a read of STATUS returns (R32): while BUSY = 1 the four validity bits are unspecified. -/
def State.status (s : State) : BitVec 32 :=
  if s.busy then
    let u := s.free 0x01 4
    statusWord u[3] u[2] u[1] u[0] s.fault s.done s.busy
  else statusWord s.pbv s.vv s.wv s.hv s.fault s.done s.busy

/-- The checks of PAD and HASH, in the order of R211. plen(L) is looked at only after the first has passed. -/
def State.checkLength (s : State) : Option Cause :=
  if 2 ^ 61 ≤ s.mlen.toNat then some .lengthOverflow
  else if exceeds s.par.msgBytes s.mlen.toNat then some .messageRange
  else if exceeds s.par.pbBytes (plenOf s.mlen.toNat) then some .padBufferExhausted
  else none

/-- The checks of SCHEDULE, in the order of R211. -/
def State.checkBlock (s : State) : Option Cause :=
  if !s.pbv then some .undefinedOperand
  else if s.plen.toNat / 64 ≤ s.arg.toNat then some .blockIndexRange
  else none

/-- The check of COMPRESS (R211). -/
def State.checkOperands (s : State) : Option Cause :=
  if !s.hv || !s.wv then some .undefinedOperand else none

end Sys2Proof.Machine
end

