-- ==== Sys2Proof/Machine/Compressor.lean ====
section
/-! DEFINITION. The compressor (43_compress.md): COMPRESS, U_LOADV, U_ROUND and U_FOLD. -/

namespace Sys2Proof.Machine

/-- COMPRESS, R186: acceptance. -/
def execCompress (s : State) : Host.Outcome State Fault Refusal :=
  .next (s.issue s.checkOperands ((s.accept Op.compress).goto Phase.loadv))

/-- U_LOADV, R187. -/
def execULoadv (s : State) : Host.Outcome State Fault Refusal :=
  .next { ((s.setAllV s.allH).tick.goto Phase.round) with t := 0 }

/-- U_ROUND, R184. -/
def execURound (s : State) : Host.Outcome State Fault Refusal :=
  let s1 := (s.setAllV (round s.allV (Rom.k s.t) (s.readW s.t))).tick
  .next (if s.t.toNat < 63 then { s1 with t := s.t + 1 } else s1.goto Phase.fold)

/-- U_FOLD, R188. -/
def execUFold (s : State) : Host.Outcome State Fault Refusal :=
  let s1 := (s.setAllH (fold s.allH s.allV)).tick
  .next
    (if s1.cur = Op.hash then
       if s.blk.toNat + 1 = s.plen.toNat / 64 then s1.goto Phase.discard
       else { (s1.goto Phase.loadw) with blk := s.blk + 1, t := 0 }
     else s1.complete)

end Sys2Proof.Machine
end

