-- ==== Sys2Proof/Machine/Padding.lean ====
section
/-! DEFINITION. The padding engine (41_padding.md): PAD and U_PADBYTE. -/

namespace Sys2Proof.Machine

/-- `PLEN <- plen(MLEN); PBV <- 0`: the acceptance writes PAD and HASH share (R144; 44_digest_engine.md R207). -/
def State.openBuffer (s : State) : State :=
  { s.discardPB with plen := BitVec.ofNat 64 (plenOf s.mlen.toNat) }

/-- PAD, R144: acceptance. -/
def execPad (s : State) : Host.Outcome State Fault Refusal :=
  .next (s.issue s.checkLength
    { ((s.openBuffer.accept Op.pad).goto Phase.padbyte) with pidx := 0 })

/-- `MemWrite(PB, i, 1, [b])`. -/
def State.writePB (s : State) (i : Nat) (b : Byte) : State := { s with pb := s.pb.write i b }

/-- U_PADBYTE, R145. -/
def execUPadbyte (s : State) : Host.Outcome State Fault Refusal :=
  let i := s.pidx.toNat
  let s1 := (s.writePB i s.padOperand).tick
  .next
    (if i < s.plen.toNat - 1 then { s1 with pidx := BitVec.ofNat 64 (i + 1) }
     else
       let s2 := { s1 with pbv := true }
       if s2.cur = Op.hash then { (s2.goto Phase.loadw) with blk := 0, t := 0 }
       else s2.complete)

end Sys2Proof.Machine
end

