-- ==== Sys2Proof/Machine/Engine.lean ====
section
/-! DEFINITION. The orchestration (44_digest_engine.md): INIT, U_INIT, HASH and U_DISCARD. -/

namespace Sys2Proof.Machine

/-- INIT, R205: acceptance; it has no checks. -/
def execInit (s : State) : Host.Outcome State Fault Refusal :=
  .next (s.issue none ((s.accept Op.init).goto Phase.init))

/-- U_INIT, R206. -/
def execUInit (s : State) : Host.Outcome State Fault Refusal :=
  let s1 := s.setAllH Rom.h0
  .next (if s1.cur = Op.hash then { (s1.goto Phase.padbyte) with pidx := 0 } else s1.complete)

/-- HASH, R207: acceptance. -/
def execHash (s : State) : Host.Outcome State Fault Refusal :=
  .next (s.issue s.checkLength ((s.openBuffer.accept Op.hash).goto Phase.init))

/-- U_DISCARD, R208. -/
def execUDiscard (s : State) : Host.Outcome State Fault Refusal :=
  .next s.discardPB.undefineVW.complete

end Sys2Proof.Machine
end

