-- ==== Sys2Proof/Machine/Scheduler.lean ====
section
/-! DEFINITION. The block scheduler (42_schedule.md): SCHEDULE, U_LOADW and U_EXPAND. -/

namespace Sys2Proof.Machine

/-- SCHEDULE, R163: acceptance. ARG is copied to the 56 bits of BLK; the check has made it fit (10_state.md R38). -/
def execSchedule (s : State) : Host.Outcome State Fault Refusal :=
  .next (s.issue s.checkBlock
    { ((s.accept Op.schedule).goto Phase.loadw) with blk := s.arg.setWidth 56, t := 0 })

/-- U_LOADW, R164. -/
def execULoadw (s : State) : Host.Outcome State Fault Refusal :=
  let s1 := { (s.setW s.t (s.pbWord s.wordAddr)).tick with t := s.t + 1 }
  .next (if s.t = 15 then s1.goto Phase.expand else s1)

/-- U_EXPAND, R165. -/
def execUExpand (s : State) : Host.Outcome State Fault Refusal :=
  let s1 := (s.setW s.t s.expandOperand).tick
  .next
    (if s.t.toNat < 63 then { s1 with t := s.t + 1 }
     else if s1.cur = Op.hash then s1.goto Phase.loadv
     else s1.complete)

end Sys2Proof.Machine
end

