-- ==== Sys2Proof/Machine/Dispatch.lean ====
section
/-! DEFINITION. The meaning of every instruction, one arm each. -/

namespace Sys2Proof.Machine

def exec (i : Instr) (s : State) : Host.Outcome State Fault Refusal :=
  match i with
  | .init => Sys2Proof.Machine.execInit s
  | .pad => Sys2Proof.Machine.execPad s
  | .schedule => Sys2Proof.Machine.execSchedule s
  | .compress => Sys2Proof.Machine.execCompress s
  | .hash => Sys2Proof.Machine.execHash s
  | .uInit => Sys2Proof.Machine.execUInit s
  | .uPadbyte => Sys2Proof.Machine.execUPadbyte s
  | .uLoadw => Sys2Proof.Machine.execULoadw s
  | .uExpand => Sys2Proof.Machine.execUExpand s
  | .uLoadv => Sys2Proof.Machine.execULoadv s
  | .uRound => Sys2Proof.Machine.execURound s
  | .uFold => Sys2Proof.Machine.execUFold s
  | .uDiscard => Sys2Proof.Machine.execUDiscard s

end Sys2Proof.Machine
end

