-- ==== Sys2Proof/Machine/HostPort.lean ====
section
/-! DEFINITION. What the HOST does at the engine's ports (10_state.md R30, R43), and the turns of the two agents. -/

namespace Sys2Proof.Machine

/-! The register map (10_state.md R30). -/

/-- The registers of R30; `unmapped` is every other number. -/
inductive PortReg where
  | cmd
  | status
  | fcause
  | mlen
  | arg
  | plen
  | digest
  | hex
  | h (j : Fin 8)
  | v (j : Fin 8)
  | w (t : BitVec 6)
  | k (i : BitVec 6)
  | h0 (j : Fin 8)
  | unmapped
deriving DecidableEq, Repr

/-- The register a number names (R30). -/
def portReg (n : Nat) : PortReg :=
  if n = 0x00 then .cmd
  else if n = 0x01 then .status
  else if n = 0x02 then .fcause
  else if n = 0x03 then .mlen
  else if n = 0x04 then .arg
  else if n = 0x05 then .plen
  else if n = 0x06 then .digest
  else if n = 0x07 then .hex
  else if hn : 0x10 ≤ n ∧ n < 0x18 then .h ⟨n - 0x10, by omega⟩
  else if hn : 0x18 ≤ n ∧ n < 0x20 then .v ⟨n - 0x18, by omega⟩
  else if 0x40 ≤ n ∧ n < 0x80 then .w (BitVec.ofNat 6 (n - 0x40))
  else if 0x80 ≤ n ∧ n < 0xC0 then .k (BitVec.ofNat 6 (n - 0x80))
  else if hn : 0xC0 ≤ n ∧ n < 0xC8 then .h0 ⟨n - 0xC0, by omega⟩
  else .unmapped

/-- The width of a register (R30). An unmapped number has none; the model reads 32 bits there (log entry 15). -/
def PortReg.width : PortReg → Nat
  | .mlen => 64
  | .arg => 64
  | .plen => 64
  | .digest => 256
  | .hex => 512
  | _ => 32

/-- A HOST statement the ports can carry: a written value fits the register's width (R30; log entry 14). -/
def HostEvent.wf : HostEvent → Bool
  | .wr n x => decide (x.toNat < 2 ^ (portReg n).width)
  | _ => true

/-! Reads. A HOST read never changes any state of the engine (R43). -/

/-- `x` where the condition of R43 lets the read return the content, else an unspecified value (log entry 5). -/
def State.shown {width : Nat} (s : State) (visible : Bool) (slot : Nat) (x : BitVec width) : BitVec width :=
  if visible then x else s.free slot width

/-- BUSY = 0: idle or faulted (R34, R35, R36, R40). -/
def State.notBusy (s : State) : Bool := s.fault || !s.busy

/-- What a HOST read of register number `n` returns (R43 and the rules of the registers). -/
def State.readReg (s : State) (n : Nat) : PortValue :=
  match portReg n with
  | .cmd => ⟨32, s.free n 32⟩
  | .status => ⟨32, s.status⟩
  | .fcause => ⟨32, s.fcause.setWidth 32⟩
  | .mlen => ⟨64, s.shown s.notBusy n s.mlen⟩
  | .arg => ⟨64, s.shown s.notBusy n s.arg⟩
  | .plen => ⟨64, s.shown s.notBusy n s.plen⟩
  | .digest => ⟨256, s.shown (s.idle && s.hv) n (digestView s.allH)⟩
  | .hex => ⟨512, s.shown (s.idle && s.hv) n (hexView s.allH)⟩
  | .h j => ⟨32, s.shown s.idle n (s.readH j)⟩
  | .v j => ⟨32, s.shown s.idle n (s.readV j)⟩
  | .w t => ⟨32, s.shown s.idle n (s.readW t)⟩
  | .k i => ⟨32, Rom.k i⟩
  | .h0 j => ⟨32, Rom.h0[j]⟩
  | .unmapped => ⟨32, s.free n 32⟩

/-- What a HOST read of a MSG byte returns (R40; 93_implementation_defined.md U11 beyond MSG_BYTES). -/
def State.readMsg (s : State) (a : Nat) : PortValue :=
  ⟨8, s.shown (s.notBusy && inSpace s.par.msgBytes a) a (s.msgByte a)⟩

/-- What a HOST read of a PB byte returns (R41). -/
def State.readPB (s : State) (a : Nat) : PortValue :=
  ⟨8, s.shown (s.idle && s.pbv && decide (a < s.plen.toNat)) a (s.pbByte a)⟩

/-- The HOST has read a value: its list of results grows (30_encoding.md R104). -/
def State.record (s : State) (x : PortValue) : State := { s.tick with results := s.results ++ [x] }

/-- The HOST reads register number `n` (R104). -/
def State.rd (s : State) (n : Nat) : State := s.record (s.readReg n)

/-- One round of `WAIT` (30_encoding.md R104): `RD STATUS`, and if it shows BUSY = 1 the ENGINE's turn and `WAIT` again
(log entry 12). -/
def State.poll (s : State) : State := if s.busy then (s.rd 0x01).setHost (.engine :: .wait :: s.host) else s.rd 0x01

/-! Writes. -/

/-- A HOST write to CMD, the issue of a command (44_digest_engine.md R210). -/
def State.writeCmd (s : State) (c : BitVec 32) : Host.Outcome State Fault Refusal :=
  match decodeCommand c with
  | .ok i => exec i s
  | .error _ => .next (s.whenIdle (s.raise .illegalCommand))

/-- A HOST write of register number `n` (R43). A register takes as many low bits of the value as it is wide (log entry 14). -/
def State.writeReg (s : State) (n : Nat) (x : BitVec 64) : Host.Outcome State Fault Refusal :=
  match portReg n with
  | .cmd => s.writeCmd (x.setWidth 32)
  | .mlen => .next (s.whenIdle { s with mlen := x })
  | .arg => .next (s.whenIdle { s with arg := x })
  | .h j => .next (s.whenIdle (s.setH j (x.setWidth 32)))
  | .w t => .next (s.whenIdle (s.setW t (x.setWidth 32)))
  | .status => .next s
  | .fcause => .next s
  | .plen => .next s
  | .digest => .next s
  | .hex => .next s
  | .v _ => .next s
  | .k _ => .next s
  | .h0 _ => .next s
  | .unmapped => .next s

/-- A HOST write of a MSG byte (R40). An address beyond MSG_BYTES does not exist: no effect (93_implementation_defined.md
U11; log entry 11). -/
def State.writeMsg (s : State) (a : Nat) (b : Byte) : State :=
  if inSpace s.par.msgBytes a then s.whenIdle { s with msg := s.msg.write a b } else s

/-! Turns. -/

/-- The ENGINE's turn (44_digest_engine.md R213): with BUSY = 1 the micro-operation PHASE selects; otherwise, and for a
PHASE without one (R96; log entry 9), nothing. -/
def State.engineTurn (s : State) : Host.Outcome State Fault Refusal :=
  if s.busy then
    match decodePhase s.phase with
    | .ok i => exec i s
    | .error _ => .next s
  else .next s

/-- One statement of the HOST (30_encoding.md R104), already taken from its list. -/
def State.hostTurn (s : State) (e : HostEvent) : Host.Outcome State Fault Refusal :=
  match e with
  | .wr n x => s.writeReg n x
  | .rd n => .next (s.rd n)
  | .msgw a b => .next (s.writeMsg a b)
  | .msgr a => .next (s.record (s.readMsg a))
  | .pbr a => .next (s.record (s.readPB a))
  | .wait => .next s.poll
  | .engine => s.engineTurn
  | .reset => .next s.applyReset

/-- Whose turn it is (20_memory.md R72; log entry 1): the HOST's while it has statements left, else the ENGINE's. -/
def State.turn (s : State) : Host.Outcome State Fault Refusal :=
  match s.host with
  | [] => s.engineTurn
  | e :: rest => (s.setHost rest).hostTurn e

/-! Placing an instruction where it is fetched next. -/

/-- A command is placed as the HOST's next statement, a write of its word to CMD; a micro-operation as the content of
PHASE with BUSY = 1 and the ENGINE's turn next (log entry 13). -/
def State.place (s : State) (e : Encoded) : State :=
  match e with
  | .command w => { s with host := .wr 0x00 (w.setWidth 64) :: s.host }
  | .phase p => { s with phase := p, busy := true, host := .engine :: s.host }

end Sys2Proof.Machine
end

