-- ==== Sys2Proof/Machine/Step.lean ====
section
/-! DEFINITION. One step of the machine, and the placing of an instruction where the next step fetches it. -/

namespace Sys2Proof.Machine

/-- One HOST access or one micro-operation (20_memory.md R72). -/
def step (s : State) : Host.Outcome State Fault Refusal := s.turn

/-- `s` with the opcode table's word `w` where `step` fetches its next instruction (log entry 13). -/
def State.withFetchWord (s : State) (nbits w : Nat) : State :=
  match tableWord nbits w with
  | some e => s.place e
  | none => s

end Sys2Proof.Machine
end

