-- ==== Sys2Proof/Machine/Script.lean ====
section
/-! DEFINITION. The shorthands and pseudo-operations of HOST scripts (30_encoding.md R104, R105), as lists of HOST
statements. -/

namespace Sys2Proof.Machine

/-- `MSGW i, b_i` for every byte of the list, from address `a`. -/
def Script.msgBytes (a : Nat) : List Byte → List HostEvent
  | [] => []
  | b :: bs => .msgw a b :: Script.msgBytes (a + 1) bs

/-- `MSG bytes`: the bytes to MSG from address 0, then their number to MLEN. DESIGN CHOICE (log entry 26): R104 gives the
number no bound; of 2^64 or more bytes the number modulo 2^64 is written. -/
def Script.msg (bs : List Byte) : List HostEvent :=
  Script.msgBytes 0 bs ++ [.wr 0x03 (BitVec.ofNat 64 bs.length)]

/-- `WR CMD, <command word>`, for a command; a micro-operation has no statement. -/
def Script.command (i : Instr) : List HostEvent :=
  match encode i with
  | .command w => [.wr 0x00 (w.setWidth 64)]
  | .phase _ => []

/-- `SCHEDULE k`: `WR ARG, k` then the command. DESIGN CHOICE (log entry 26): R104 gives k no bound; of a k of 2^64 or
more, k modulo 2^64 is written. -/
def Script.schedule (k : Nat) : List HostEvent := .wr 0x04 (BitVec.ofNat 64 k) :: Script.command .schedule

/-- R105: the source's primary operation, with the digest read as a number. -/
def Script.hash (bs : List Byte) : List HostEvent := Script.msg bs ++ Script.command .hash ++ [.wait, .rd 0x06]

/-- R105: the same, with the digest read as 64 character codes. -/
def Script.hashHex (bs : List Byte) : List HostEvent := Script.msg bs ++ Script.command .hash ++ [.wait, .rd 0x07]

/-- `PBR a .. PBR a+n-1`. -/
def Script.readPB (a n : Nat) : List HostEvent := (List.range n).map (fun i => .pbr (a + i))

/-- R105: `pad(m)`, for a message of `bs.length` bytes. `PBR` goes up to plen(L), which is PLEN where PAD is accepted (log
entry 26). -/
def Script.pad (bs : List Byte) : List HostEvent :=
  Script.msg bs ++ Script.command .pad ++ [.wait, .rd 0x05] ++ Script.readPB 0 (plenOf bs.length)

/-- `RD reg .. RD reg+n-1`. -/
def Script.readRegs (reg n : Nat) : List HostEvent := (List.range n).map (fun i => .rd (reg + i))

/-- R105: `schedule(x)`, for a block of 64 bytes (log entry 26 for other lengths). -/
def Script.scheduleBlock (x : List Byte) : List HostEvent :=
  Script.msg x ++ Script.command .pad ++ [.wait] ++ Script.schedule 0 ++ [.wait] ++ Script.readRegs 0x40 64

/-- `WR reg, x[0]; WR reg+1, x[1]; …`. -/
def Script.writeRegs (reg : Nat) : List Word → List HostEvent
  | [] => []
  | x :: xs => .wr reg (x.setWidth 64) :: Script.writeRegs (reg + 1) xs

/-- R105: `compress(s, w)`, for 8 and 64 words (log entry 26 for other lengths). -/
def Script.compress (s w : List Word) : List HostEvent :=
  Script.writeRegs 0x10 s ++ Script.writeRegs 0x40 w ++ Script.command .compress ++ [.wait] ++ Script.readRegs 0x10 8

/-- `SCHEDULE k; WAIT; COMPRESS; WAIT` for k = 0 .. n-1 (44_digest_engine.md R209). -/
def Script.blockLoop (n : Nat) : List HostEvent :=
  (List.range n).flatMap (fun k => Script.schedule k ++ [.wait] ++ Script.command .compress ++ [.wait])

/-- R209: HASH as a sequence of the other commands, for a Padded Buffer of `n` blocks. -/
def Script.stepwiseHash (n : Nat) : List HostEvent :=
  Script.command .init ++ [.wait] ++ Script.command .pad ++ [.wait] ++ Script.blockLoop n

end Sys2Proof.Machine
end

