-- ==== Sys2Proof/Safety.lean ====
section
/-! DEFINITION. What claims are stated in: the invariant of the machine, good ends and safe runs, and the transition
table of the sequencer. -/

namespace Sys2Proof.Machine

/-- The outcome is a next state with a property. -/
def Answers (o : Host.Outcome State Fault Refusal) (P : State → Prop) : Prop := ∃ t, o = .next t ∧ P t

/-- `n` steps of the machine (Host/Core.lean). -/
abbrev run (n : Nat) (s : State) : Host.Outcome State Fault Refusal := Sys2Proof.core.run n s

/-! Good ends (44_digest_engine.md R217, 60_exceptions.md R256). -/

/-- R217: the script has executed, BUSY = 0 and FAULT = 0, and DONE = 1 if a command was issued. -/
structure State.GoodEnd (s : State) (issued : Bool) : Prop where
  finished : s.host = []
  notBusy : s.busy = false
  noFault : s.fault = false
  completed : issued = true → s.done = true

/-- R256: no fault is recorded within `n` steps from `s`. -/
def SafeRun (n : Nat) (s : State) : Prop := ∀ k ≤ n, Answers (run k s) fun t => t.fault = false

/-! The invariant. -/

/-- The registers of a file below index `k` are defined. -/
def definedBelow {n : Nat} (file : Vector Reg n) (k : Nat) : Prop :=
  ∀ (i : Nat) (hi : i < n), i < k → (file[i]).isSome = true

/-- What the checks of PAD and HASH established (44_digest_engine.md R211), and PLEN = plen(MLEN) (41_padding.md R144):
true until the padding is done, because MLEN cannot change while BUSY = 1 (R218). -/
structure State.LengthsChecked (s : State) : Prop where
  length : s.mlen.toNat < 2 ^ 61
  message : exceeds s.par.msgBytes s.mlen.toNat = false
  buffer : exceeds s.par.pbBytes (plenOf s.mlen.toNat) = false
  padded : s.plen.toNat = plenOf s.mlen.toNat

/-- BLK names a block of a defined Padded Buffer (10_state.md R37, R38). -/
structure State.BlockInBuffer (s : State) : Prop where
  defined : s.pbv = true
  inRange : s.blk.toNat < s.plen.toNat / 64

/-- What holds between any two steps: the memories are in canonical form, the STATUS bits exclude each other as
10_state.md R32 says, PHASE fits them (R37), a faulted engine holds nothing (60_exceptions.md R250), PBV tells the
truth about PB, and in every phase the operands of its micro-operation are defined and its counters in range (R38,
60_exceptions.md R241). -/
structure State.Inv (s : State) : Prop where
  msgForm : s.msg.wf = true
  msgInSpace : ∀ a, (s.msg.read a).isSome = true → inSpace s.par.msgBytes a = true
  pbForm : s.pb.wf = true
  busyFault : s.busy = true → s.fault = false
  busyDone : s.busy = true → s.done = false
  faultDone : s.fault = true → s.done = false
  idlePhase : s.idle = true ↔ s.phase = Phase.idle
  faultPhase : s.fault = true ↔ s.phase = Phase.faulted
  busyPhase : s.busy = true ↔ 1 ≤ s.phase.toNat ∧ s.phase.toNat ≤ 8
  causeRecorded : s.fault = true ↔ s.fcause ≠ 0
  causeLegal : s.fcause.toNat ≤ 7
  faultUndefH : s.fault = true → s.h = Vector.replicate 8 none
  faultUndefV : s.fault = true → s.v = Vector.replicate 8 none
  faultUndefW : s.fault = true → s.w = Vector.replicate 64 none
  faultUndefPB : s.fault = true → s.pbv = false
  plenLegal : s.plen = 0 ∨ (s.plen.toNat % 64 = 0 ∧ 64 ≤ s.plen.toNat ∧ s.plen.toNat ≤ 2 ^ 61 + 64)
  pbvPlen : s.pbv = true → s.plen ≠ 0
  pbContent : s.phase ≠ Phase.padbyte → ∀ a, (s.pb.read a).isSome = (s.pbv && decide (a < s.plen.toNat))
  inInit : s.phase = Phase.init → s.cur = Op.init ∨ (s.cur = Op.hash ∧ s.pbv = false ∧ s.LengthsChecked)
  inPadbyte : s.phase = Phase.padbyte →
    s.LengthsChecked ∧ s.pidx.toNat < s.plen.toNat ∧ s.pbv = false ∧
      (∀ a, (s.pb.read a).isSome = decide (a < s.pidx.toNat)) ∧
      (s.cur = Op.pad ∨ (s.cur = Op.hash ∧ s.hv = true))
  inLoadw : s.phase = Phase.loadw →
    s.BlockInBuffer ∧ s.t.toNat ≤ 15 ∧ definedBelow s.w s.t.toNat ∧
      (s.cur = Op.schedule ∨ (s.cur = Op.hash ∧ s.hv = true))
  inExpand : s.phase = Phase.expand →
    s.BlockInBuffer ∧ 16 ≤ s.t.toNat ∧ definedBelow s.w s.t.toNat ∧
      (s.cur = Op.schedule ∨ (s.cur = Op.hash ∧ s.hv = true))
  inLoadv : s.phase = Phase.loadv →
    s.hv = true ∧ s.wv = true ∧ (s.cur = Op.compress ∨ (s.cur = Op.hash ∧ s.BlockInBuffer))
  inRound : s.phase = Phase.round →
    s.hv = true ∧ s.wv = true ∧ s.vv = true ∧ (s.cur = Op.compress ∨ (s.cur = Op.hash ∧ s.BlockInBuffer))
  inFold : s.phase = Phase.fold →
    s.hv = true ∧ s.wv = true ∧ s.vv = true ∧ (s.cur = Op.compress ∨ (s.cur = Op.hash ∧ s.BlockInBuffer))
  inDiscard : s.phase = Phase.discard → s.hv = true ∧ s.cur = Op.hash

/-! The transition table of the sequencer (44_digest_engine.md R212), for the rows a micro-operation takes. -/

/-- The "to" and "counter updates" columns when PHASE becomes `p`: the counters not named keep their values. -/
def State.seqIs (t : State) (p : BitVec 4) (blk t' pidx : Nat) : Prop :=
  t.phase = p ∧ t.blk.toNat = blk ∧ t.t.toNat = t' ∧ t.pidx.toNat = pidx ∧ t.busy = true

/-- IDLE (complete). -/
def State.completedFrom (t s : State) : Prop :=
  t.phase = Phase.idle ∧ t.busy = false ∧ t.done = true ∧ t.blk = s.blk ∧ t.t = s.t ∧ t.pidx = s.pidx

/-- The row of R212 an ENGINE step from `s` to `t` takes; CUR never changes. -/
def TableRow (s t : State) : Prop :=
  t.cur = s.cur ∧
  let b := s.blk.toNat; let k := s.t.toNat; let x := s.pidx.toNat; let P := s.plen.toNat
  (s.phase = Phase.init ∧ s.cur = Op.init ∧ t.completedFrom s) ∨
  (s.phase = Phase.init ∧ s.cur = Op.hash ∧ t.seqIs Phase.padbyte b k 0) ∨
  (s.phase = Phase.padbyte ∧ x < P - 1 ∧ t.seqIs Phase.padbyte b k (x + 1)) ∨
  (s.phase = Phase.padbyte ∧ x = P - 1 ∧ s.cur = Op.pad ∧ t.completedFrom s) ∨
  (s.phase = Phase.padbyte ∧ x = P - 1 ∧ s.cur = Op.hash ∧ t.seqIs Phase.loadw 0 0 x) ∨
  (s.phase = Phase.loadw ∧ k < 15 ∧ t.seqIs Phase.loadw b (k + 1) x) ∨
  (s.phase = Phase.loadw ∧ k = 15 ∧ t.seqIs Phase.expand b 16 x) ∨
  (s.phase = Phase.expand ∧ k < 63 ∧ t.seqIs Phase.expand b (k + 1) x) ∨
  (s.phase = Phase.expand ∧ k = 63 ∧ s.cur = Op.schedule ∧ t.completedFrom s) ∨
  (s.phase = Phase.expand ∧ k = 63 ∧ s.cur = Op.hash ∧ t.seqIs Phase.loadv b k x) ∨
  (s.phase = Phase.loadv ∧ t.seqIs Phase.round b 0 x) ∨
  (s.phase = Phase.round ∧ k < 63 ∧ t.seqIs Phase.round b (k + 1) x) ∨
  (s.phase = Phase.round ∧ k = 63 ∧ t.seqIs Phase.fold b k x) ∨
  (s.phase = Phase.fold ∧ s.cur = Op.compress ∧ t.completedFrom s) ∨
  (s.phase = Phase.fold ∧ s.cur = Op.hash ∧ b + 1 < P / 64 ∧ t.seqIs Phase.loadw (b + 1) 0 x) ∨
  (s.phase = Phase.fold ∧ s.cur = Op.hash ∧ b + 1 = P / 64 ∧ t.seqIs Phase.discard b k x) ∨
  (s.phase = Phase.discard ∧ s.cur = Op.hash ∧ t.completedFrom s)

/-! What fault entry leaves (60_exceptions.md R250). -/

/-- `t` is `s` after `raise` of the fault with the code, clause by clause. -/
structure FaultEntered (s t : State) (code : Nat) : Prop where
  status : t.fault = true ∧ t.busy = false ∧ t.done = false ∧ t.fcause.toNat = code
  phase : t.phase = Phase.faulted
  undefH : ∀ j : Fin 8, t.h[j] = none
  undefV : ∀ j : Fin 8, t.v[j] = none
  undefW : ∀ i : Fin 64, t.w[i] = none
  undefPB : t.pbv = false ∧ ∀ a, t.pb.read a = none
  kept : t.mlen = s.mlen ∧ t.arg = s.arg ∧ t.plen = s.plen ∧ t.cur = s.cur ∧ t.blk = s.blk ∧ t.t = s.t ∧
    t.pidx = s.pidx
  msgKept : ∀ a, t.msgByte a = s.msgByte a
  outside : t.par = s.par ∧ t.host = s.host ∧ t.results = s.results ∧ t.fresh = s.fresh ∧ t.epoch = s.epoch

end Sys2Proof.Machine
end

