-- ==== Sys2Proof/Certificates/Slice0/Obligations.lean ====
section
/-! DEFINITION. The statements for the provers. Each docstring says which sentence of spec/ it formalises. -/

open Sys2Proof Sys2Proof.Machine

/-! ### Encodings -/

/-- 30_encoding.md R91, R92, R95: a few words written out from the tables, three illegal command words among them. -/
def Obligations.EncodingTableWords : Prop :=
  decodeCommand 0x00000001#32 = .ok .init ∧ decodeCommand 0x00000003#32 = .ok .schedule ∧
  decodeCommand 0x00000005#32 = .ok .hash ∧ decodeCommand 0x00000000#32 = .error .illegalCommand ∧
  decodeCommand 0x00000006#32 = .error .illegalCommand ∧ decodeCommand 0x00000015#32 = .error .illegalCommand ∧
  decodePhase 0b0001#4 = .ok .uInit ∧ decodePhase 0b0010#4 = .ok .uPadbyte ∧ decodePhase 0b0100#4 = .ok .uExpand ∧
  decodePhase 0b0110#4 = .ok .uRound ∧ decodePhase 0b1000#4 = .ok .uDiscard ∧
  decodePhase 0b0000#4 = .error .idlePhase ∧ decodePhase 0b1111#4 = .error .faultedPhase ∧
  decodePhase 0b1001#4 = .error .reservedPhase

/-- 30_encoding.md R90, R91, over all 2^32 words: OP is bits 3:0, bits 31:4 must be 0, the five opcodes are the five
commands, and no other word is a command. -/
def Obligations.CommandWordsExact : Prop :=
  ∀ w : BitVec 32,
    let op := (w.extractLsb' 0 4).toNat
    let zero := w.extractLsb' 4 28
    (decodeCommand w = .ok .init ↔ zero = 0 ∧ op = 1) ∧
    (decodeCommand w = .ok .pad ↔ zero = 0 ∧ op = 2) ∧
    (decodeCommand w = .ok .schedule ↔ zero = 0 ∧ op = 3) ∧
    (decodeCommand w = .ok .compress ↔ zero = 0 ∧ op = 4) ∧
    (decodeCommand w = .ok .hash ↔ zero = 0 ∧ op = 5) ∧
    (decodeCommand w = .error .illegalCommand ↔ zero ≠ 0 ∨ op = 0 ∨ 6 ≤ op)

/-- 30_encoding.md R91, R95, R107: decoding and encoding are inverse, in both places an operation code can stand. -/
def Obligations.EncodingsAgree : Prop :=
  ∀ (e : Encoded) (i : Instr), decode e = .ok i ↔ e = encode i

/-! ### Steps and reset -/

/-- 44_digest_engine.md R210, R213: a write of a command word to CMD runs that command, an ENGINE turn with BUSY = 1 runs
the micro-operation of PHASE (so does the turn that follows a STATUS read of WAIT), and an instruction placed by
`withFetchWord` is the one the next step runs. The list `host`, its item `engine`, the ENGINE's turn between two reads of
WAIT, and the placing are the model's (log entries 1, 12, 13). -/
def Obligations.StepRunsDecodedInstruction : Prop :=
  (∀ (s : State) (c : BitVec 32) (rest : List HostEvent) (i : Instr),
    s.host = .wr 0x00 (c.setWidth 64) :: rest → decodeCommand c = .ok i →
      step s = exec i { s with host := rest }) ∧
  (∀ (s : State) (i : Instr), s.host = [] → s.busy = true → decodePhase s.phase = .ok i → step s = exec i s) ∧
  (∀ (s : State) (rest : List HostEvent) (i : Instr),
    s.host = .engine :: rest → s.busy = true → decodePhase s.phase = .ok i →
      step s = exec i { s with host := rest }) ∧
  (∀ (s : State) (rest : List HostEvent) (i : Instr),
    s.host = .wait :: rest → s.busy = true → decodePhase s.phase = .ok i →
      Answers (step s) fun u => step u = exec i { u with host := .wait :: rest } ∧
        u = { s with host := u.host, results := u.results, fresh := u.fresh }) ∧
  (∀ (s : State) (c : BitVec 32) (i : Instr), decodeCommand c = .ok i → step (s.withFetchWord 32 c.toNat) = exec i s) ∧
  (∀ (s : State) (p : BitVec 4) (i : Instr), decodePhase p = .ok i →
    step (s.withFetchWord 8 p.toNat) = exec i { s with phase := p, busy := true })

/-- 44_digest_engine.md R213, 30_encoding.md R95, R96: without BUSY, and for the PHASE codes that have no
micro-operation, the ENGINE has no step and nothing changes. -/
def Obligations.NoEngineStepNoChange : Prop :=
  ∀ s : State, s.host = [] →
    (s.busy = false ∨ s.phase.toNat = 0 ∨ 9 ≤ s.phase.toNat) → step s = .next s

/-- 10_state.md R44, for the reset state and for RESET in any state (70_reset_and_hazards.md R280): every value of the
table, MSG without a recorded byte, STATUS 0, and no ENGINE step. -/
def Obligations.ResetLeavesTheListedValues : Prop :=
  let atReset : State → Prop := fun t =>
    (∀ j : Fin 8, t.h[j] = none ∧ t.v[j] = none) ∧ (∀ i : Fin 64, t.w[i] = none) ∧
    (∀ i : BitVec 6, t.readReg (0x80 + i.toNat) = ⟨32, Rom.k i⟩) ∧
    (∀ j : Fin 8, t.readReg (0xC0 + j.val) = ⟨32, Rom.h0[j]⟩) ∧
    (∀ a, t.pb.read a = none) ∧ t.pbv = false ∧ (∀ a, t.msg.read a = none) ∧
    t.mlen = 0 ∧ t.arg = 0 ∧ t.plen = 0 ∧ t.status = 0x00000000#32 ∧ t.fcause = 0 ∧ t.cur = 0 ∧ t.phase = 0 ∧
    t.blk = 0 ∧ t.t = 0 ∧ t.pidx = 0 ∧ t.engineTurn = .next t
  atReset State.reset ∧
  ∀ (s : State) (rest : List HostEvent), s.host = .reset :: rest →
    Answers (step s) atReset

/-! ### Faults -/

/-- 60_exceptions.md R243, R250: while BUSY = 1, a HOST write to CMD, MLEN, ARG, H, W or a MSG byte raises BusyViolation
and has no other effect; a HOST read never faults. -/
def Obligations.BusyWriteFaults : Prop :=
  ∀ (s : State) (e : HostEvent) (rest : List HostEvent),
    s.host = e :: rest → s.busy = true → s.fault = false →
    ((∃ n x, e = .wr n x ∧
        (n = 0x00 ∨ n = 0x03 ∨ n = 0x04 ∨ (0x10 ≤ n ∧ n < 0x18) ∨ (0x40 ≤ n ∧ n < 0x80))) ∨
      (∃ a b, e = .msgw a b ∧ inSpace s.par.msgBytes a = true) →
      Answers (step s) fun t => FaultEntered { s with host := rest } t 1) ∧
    ((∃ n, e = .rd n ∨ e = .msgr n ∨ e = .pbr n) →
      Answers (step s) fun t => t.fault = false ∧ t.busy = true ∧ t.phase = s.phase)

/-- 60_exceptions.md R244, R250: an illegal word written to CMD while idle raises IllegalCommand. -/
def Obligations.IllegalCommandFaults : Prop :=
  ∀ (s : State) (c : BitVec 32) (rest : List HostEvent),
    s.host = .wr 0x00 (c.setWidth 64) :: rest → s.idle = true →
    (c.extractLsb' 4 28 ≠ 0 ∨ (c.extractLsb' 0 4).toNat = 0 ∨ 6 ≤ (c.extractLsb' 0 4).toNat) →
    Answers (step s) fun t => FaultEntered { s with host := rest } t 2

/-- 60_exceptions.md R245, R246, R247 (and R251 for their order): the length checks of PAD and HASH, the cases that
cannot occur, and what the smallest PB_BYTES accepts. -/
def Obligations.LengthChecksFault : Prop :=
  (∀ (i : Instr) (s : State), i = .pad ∨ i = .hash → s.idle = true →
    let L := s.mlen.toNat
    (2 ^ 61 ≤ L → Answers (exec i s) fun t => FaultEntered s t 3) ∧
    (L < 2 ^ 61 → Answers (exec i s) fun t => t.fcause = 3 → s.fcause = 3) ∧
    (∀ n, s.par.msgBytes = some n → L < 2 ^ 61 → n < L → Answers (exec i s) fun t => FaultEntered s t 4) ∧
    (∀ n, s.par.pbBytes = some n → L < 2 ^ 61 → exceeds s.par.msgBytes L = false → n < plenOf L →
      Answers (exec i s) fun t => FaultEntered s t 5) ∧
    (s.par.msgBytes = none → Answers (exec i s) fun t => t.fcause = 4 → s.fcause = 4) ∧
    (s.par.pbBytes = none → Answers (exec i s) fun t => t.fcause = 5 → s.fcause = 5)) ∧
  (∀ (i : Instr) (s : State), i = .pad ∨ i = .hash → s.idle = true → s.mlen.toNat < 2 ^ 61 →
    exceeds s.par.msgBytes s.mlen.toNat = false → s.par.pbBytes = some 64 →
    Answers (exec i s) fun t => t.busy = true ↔ s.mlen.toNat ≤ 55)

/-- 60_exceptions.md R248, R249: the operand checks of SCHEDULE and COMPRESS, and that INIT, PAD and HASH never raise
UndefinedOperand. -/
def Obligations.OperandChecksFault : Prop :=
  ∀ s : State, s.idle = true →
    (s.pbv = false → Answers (exec .schedule s) fun t => FaultEntered s t 6) ∧
    (s.pbv = true → s.plen.toNat / 64 ≤ s.arg.toNat → Answers (exec .schedule s) fun t => FaultEntered s t 7) ∧
    ((∃ j : Fin 8, s.h[j] = none) ∨ (∃ i : Fin 64, s.w[i] = none) →
      Answers (exec .compress s) fun t => FaultEntered s t 6) ∧
    (∀ i, i = .init ∨ i = .pad ∨ i = .hash →
      Answers (exec i s) fun t => t.fcause = 6 → s.fcause = 6)

/-- 60_exceptions.md R240: whenever a step records a fault, a HOST write raised it: BusyViolation by a write while BUSY =
1, codes 2 to 7 by a write to CMD while idle. -/
def Obligations.FaultsComeFromHostWrites : Prop :=
  ∀ s t : State, step s = .next t → s.fault = false → t.fault = true →
    1 ≤ t.fcause.toNat ∧ t.fcause.toNat ≤ 7 ∧
    (t.fcause = 1 → s.busy = true ∧
      ∃ rest, (∃ n x, s.host = .wr n x :: rest) ∨ (∃ a b, s.host = .msgw a b :: rest)) ∧
    (t.fcause ≠ 1 → s.busy = false ∧ ∃ x rest, s.host = .wr 0x00 x :: rest)

/-- 60_exceptions.md R252: with FAULT = 1 (and BUSY = 0, as R32 has it) the ENGINE has no step, a HOST write has no effect, a
read, WAIT among them, only grows the HOST's list of results, and RESET clears FAULT. The ENGINE's turn as an item of the
list and the two lists are the model's (log entries 1 and 12). -/
def Obligations.FaultedUntilReset : Prop :=
  ∀ s : State, s.fault = true → s.busy = false →
    (s.host = [] → step s = .next s) ∧
    (∀ e rest, s.host = e :: rest →
      (e = .engine ∨ (∃ n x, e = .wr n x) ∨ (∃ a b, e = .msgw a b) →
        step s = .next { s with host := rest }) ∧
      (∀ n, e = .rd n ∨ e = .msgr n ∨ e = .pbr n ∨ e = .wait →
        Answers (step s) fun t =>
          t = { s with host := rest, results := t.results, fresh := t.fresh }) ∧
      (e = .reset → Answers (step s) fun t => t.fault = false ∧ t.fcause = 0 ∧ t.phase = Phase.idle))

/-- 60_exceptions.md R256, R252: from a faulted state no step but RESET clears FAULT or changes the recorded cause (10_state.md
R33). Holds in every state with FAULT = 1. -/
def Obligations.FaultBitsNeverCleared : Prop :=
  ∀ s t : State, step s = .next t → s.fault = true → (∀ rest, s.host ≠ .reset :: rest) →
    t.fault = true ∧ t.fcause = s.fcause

/-- 60_exceptions.md R241: no micro-operation raises a fault or stops, in any state. -/
def Obligations.MicroOpsNeverFault : Prop :=
  ∀ (p : BitVec 4) (i : Instr) (s : State), decodePhase p = .ok i →
    Answers (exec i s) fun t => t.fault = s.fault ∧ t.fcause = s.fcause

/-- The model gives every instruction a next state in every state, and every step answers one (log entry 10: a fault of the
spec is a next state; 44_digest_engine.md R213, no step can block). -/
def Obligations.EveryStepAnswers : Prop :=
  (∀ (i : Instr) (s : State), ∃ t, exec i s = .next t) ∧ (∀ s : State, ∃ t, step s = .next t)

/-! ### Commands: acceptance -/

/-- 44_digest_engine.md R205: the word 0x00000001 is INIT; while idle it is accepted, one U_INIT runs and completes it, H
holds H0, and nothing else has changed. -/
def Obligations.InitRunsToCompletion : Prop :=
  decodeCommand 0x00000001#32 = .ok .init ∧
  ∀ s : State, s.idle = true →
    Answers (exec .init s) fun t =>
      t = { s with cur := 1, phase := 1, busy := true, done := false } ∧
      Answers t.engineTurn fun u =>
        u = { s with cur := 1, h := u.h, done := true, busy := false, phase := 0 } ∧
        (∀ j : Fin 8, u.h[j] = some Rom.h0[j]) ∧ u.hv = true

/-- 41_padding.md R144, 44_digest_engine.md R207, R211: PAD and HASH, idle and with the three checks passed, are accepted
with these acceptance writes and no others. That PB is
empty from acceptance on is the model's reading of PBV <- 0 (log entry 7). -/
def Obligations.PadAndHashAccepted : Prop :=
  ∀ s : State, s.idle = true → s.mlen.toNat < 2 ^ 61 → exceeds s.par.msgBytes s.mlen.toNat = false →
    exceeds s.par.pbBytes (plenOf s.mlen.toNat) = false →
    Answers (exec .pad s) (fun t => t.plen.toNat = plenOf s.mlen.toNat ∧ (∀ a, t.pb.read a = none) ∧
      t = { s with plen := t.plen, pbv := false, pb := t.pb, pidx := 0, cur := 2, phase := 2,
                   busy := true, done := false }) ∧
    Answers (exec .hash s) (fun t => t.plen.toNat = plenOf s.mlen.toNat ∧ (∀ a, t.pb.read a = none) ∧
      t = { s with plen := t.plen, pbv := false, pb := t.pb, cur := 5, phase := 1, busy := true, done := false })

/-- 42_schedule.md R163, 44_digest_engine.md R211: SCHEDULE with PBV = 1 and ARG below PLEN / 64, with PLEN a length a
Padded Buffer can have (10_state.md R36), is accepted with these writes and no others: BLK holds ARG. -/
def Obligations.ScheduleAccepted : Prop :=
  ∀ s : State, s.idle = true → s.pbv = true → s.arg.toNat < s.plen.toNat / 64 → s.plen.toNat ≤ 2 ^ 61 + 64 →
    Answers (exec .schedule s) fun t => t.blk.toNat = s.arg.toNat ∧
      t = { s with blk := t.blk, t := 0, cur := 3, phase := 3, busy := true, done := false }

/-- 43_compress.md R186, 44_digest_engine.md R211: COMPRESS with all of H and W defined is accepted with these writes and
no others. -/
def Obligations.CompressAccepted : Prop :=
  ∀ s : State, s.idle = true → (∀ j : Fin 8, s.h[j] ≠ none) → (∀ i : Fin 64, s.w[i] ≠ none) →
    exec .compress s = .next { s with cur := 4, phase := 5, busy := true, done := false }

/-! ### Micro-operations: results -/

/-- 44_digest_engine.md R206: U_INIT. -/
def Obligations.UInitSetsHashState : Prop :=
  ∀ s : State, Answers (exec .uInit s) fun t =>
    t.fault = s.fault ∧ (∀ j : Fin 8, t.h[j] = some Rom.h0[j]) ∧ t.hv = true ∧
    (s.cur = 5 → t.pidx = 0 ∧ t.phase = 2 ∧ t.busy = s.busy ∧ t.done = s.done) ∧
    (s.cur ≠ 5 → t.busy = false ∧ t.done = true ∧ t.phase = 0 ∧ t.pidx = s.pidx)

/-- 41_padding.md R145: U_PADBYTE, for every PIDX below PLEN: the byte by its four ranges, and what follows. The bit
length 8 * L has a 64-bit field only for L < 2^61 (R146), and the field its place only where PLEN holds 8 bytes (R145:
P >= 64). -/
def Obligations.UPadbyteWritesOneByte : Prop :=
  ∀ s : State, s.pidx.toNat < s.plen.toNat →
    let i := s.pidx.toNat
    let L := s.mlen.toNat
    let P := s.plen.toNat
    Answers (exec .uPadbyte s) fun t =>
      t.fault = s.fault ∧
      (∃ b, t.pb.read i = some b ∧
        (if i < L then b = s.msgByte i
         else if i = L then b = 0x80
         else if i < P - 8 then b = 0x00
         else L < 2 ^ 61 → 8 ≤ P → b = (BitVec.ofNat 64 (8 * L)).extractLsb' (56 - 8 * (i - (P - 8))) 8)) ∧
      (i < P - 1 → t.pidx.toNat = i + 1 ∧ t.phase = s.phase ∧ t.busy = s.busy ∧ t.done = s.done ∧ t.pbv = s.pbv) ∧
      (i = P - 1 → t.pbv = true ∧ t.pidx = s.pidx ∧
        (s.cur = 5 → t.blk = 0 ∧ t.t = 0 ∧ t.phase = 3 ∧ t.busy = s.busy ∧ t.done = s.done) ∧
        (s.cur ≠ 5 → t.busy = false ∧ t.done = true ∧ t.phase = 0))

/-- 42_schedule.md R164, 20_memory.md R61: U_LOADW, on four defined PB bytes. -/
def Obligations.ULoadwLoadsBigEndianWord : Prop :=
  ∀ (s : State) (b0 b1 b2 b3 : Byte), s.t.toNat ≤ 15 →
    let a := 64 * s.blk.toNat + 4 * s.t.toNat
    s.pb.read a = some b0 → s.pb.read (a + 1) = some b1 → s.pb.read (a + 2) = some b2 → s.pb.read (a + 3) = some b3 →
    Answers (exec .uLoadw s) fun t =>
      t.fault = s.fault ∧ (a % 4 = 0 ∧ (s.blk.toNat < s.plen.toNat / 64 → a + 3 < s.plen.toNat)) ∧
      (∃ x : Word, t.w[s.t.toNat]'s.t.isLt = some x ∧ x.extractLsb' 24 8 = b0 ∧ x.extractLsb' 16 8 = b1 ∧
        x.extractLsb' 8 8 = b2 ∧ x.extractLsb' 0 8 = b3) ∧
      t.t.toNat = s.t.toNat + 1 ∧
      (s.t.toNat = 15 → t.phase = 4) ∧ (s.t.toNat < 15 → t.phase = s.phase)

/-- 42_schedule.md R165: U_EXPAND, for 16 <= T <= 63 on four defined registers. -/
def Obligations.UExpandDerivesWord : Prop :=
  ∀ (s : State) (w2 w7 w15 w16 : Word) (_ : 16 ≤ s.t.toNat),
    s.w[s.t.toNat - 2]'(by have := s.t.isLt; omega) = some w2 →
    s.w[s.t.toNat - 7]'(by have := s.t.isLt; omega) = some w7 →
    s.w[s.t.toNat - 15]'(by have := s.t.isLt; omega) = some w15 →
    s.w[s.t.toNat - 16]'(by have := s.t.isLt; omega) = some w16 →
    Answers (exec .uExpand s) fun t =>
      t.fault = s.fault ∧ (s.t.toNat = 63 → definedBelow s.w 63 → t.wv = true) ∧
      t.w[s.t.toNat]'s.t.isLt = some (ssig1 w2 + w7 + ssig0 w15 + w16) ∧
      (s.t.toNat < 63 → t.t.toNat = s.t.toNat + 1 ∧ t.phase = s.phase ∧ t.busy = s.busy ∧ t.done = s.done) ∧
      (s.t.toNat = 63 → t.t = s.t ∧
        (s.cur = 5 → t.phase = 5 ∧ t.busy = s.busy ∧ t.done = s.done) ∧
        (s.cur ≠ 5 → t.busy = false ∧ t.done = true ∧ t.phase = 0))

/-- 43_compress.md R187: U_LOADV, on a defined H. -/
def Obligations.ULoadvCopiesHashState : Prop :=
  ∀ (s : State) (x : Vector Word 8), (∀ j : Fin 8, s.h[j] = some x[j]) →
    Answers (exec .uLoadv s) fun t =>
      t.fault = s.fault ∧ (∀ j : Fin 8, t.v[j] = some x[j]) ∧ (∀ j : Fin 8, t.h[j] = s.h[j]) ∧ t.vv = true ∧ t.t = 0 ∧ t.phase = 6 ∧
      t.busy = s.busy ∧ t.done = s.done

/-- 43_compress.md R184 (with R182): U_ROUND, on defined a..h and W[T]. -/
def Obligations.URoundUpdatesWorkingVariables : Prop :=
  ∀ (s : State) (a b c d e f g h x : Word),
    s.v = #v[some a, some b, some c, some d, some e, some f, some g, some h] →
    s.w[s.t.toNat]'s.t.isLt = some x →
    let t1 := h + bsig1 e + ch e f g + Rom.k s.t + x
    let t2 := bsig0 a + maj a b c
    Answers (exec .uRound s) fun t =>
      t.fault = s.fault ∧ t.v = #v[some (t1 + t2), some a, some b, some c, some (d + t1), some e, some f, some g] ∧
      t.busy = s.busy ∧ t.done = s.done ∧
      (s.t.toNat < 63 → t.t.toNat = s.t.toNat + 1 ∧ t.phase = s.phase) ∧
      (s.t.toNat = 63 → t.t = s.t ∧ t.phase = 7)

/-- 43_compress.md R188: U_FOLD, on a defined H and V; BLK + 1 is a natural number that fits BLK (10_state.md R38). -/
def Obligations.UFoldAddsWorkingVariables : Prop :=
  ∀ (s : State) (x y : Vector Word 8), (∀ j : Fin 8, s.h[j] = some x[j]) → (∀ j : Fin 8, s.v[j] = some y[j]) →
    s.blk.toNat + 1 < 2 ^ 56 →
    Answers (exec .uFold s) fun t =>
      t.fault = s.fault ∧
      (∀ j : Fin 8, t.h[j] = some (BitVec.ofNat 32 (x[j].toNat + y[j].toNat))) ∧ (∀ j : Fin 8, t.v[j] = s.v[j]) ∧
      t.hv = true ∧
      (s.cur = 5 → t.busy = s.busy ∧ t.done = s.done ∧
        (s.blk.toNat + 1 = s.plen.toNat / 64 → t.phase = 8 ∧ t.blk = s.blk ∧ t.t = s.t) ∧
        (s.blk.toNat + 1 ≠ s.plen.toNat / 64 → t.blk.toNat = s.blk.toNat + 1 ∧ t.t = 0 ∧ t.phase = 3)) ∧
      (s.cur ≠ 5 → t.busy = false ∧ t.done = true ∧ t.phase = 0)

/-- 44_digest_engine.md R208: U_DISCARD, in every state; H, PLEN, MLEN, ARG and MSG are not changed, and neither is
anything else. -/
def Obligations.UDiscardForgetsIntermediates : Prop :=
  ∀ s : State, Answers (exec .uDiscard s) fun t =>
    (∀ a, t.pb.read a = none) ∧ t.pbv = false ∧ (∀ i : Fin 64, t.w[i] = none) ∧ (∀ j : Fin 8, t.v[j] = none) ∧
    t.wv = false ∧ t.vv = false ∧ t.busy = false ∧ t.done = true ∧ t.phase = 0 ∧
    t = { s with pbv := false, pb := t.pb, w := t.w, v := t.v, busy := false, done := true, phase := 0 }

/-! ### Micro-operations: frames -/

/-- Frames of U_INIT, U_LOADV, U_ROUND and U_FOLD (44 R206; 43 R187, R184, R188): the fields named are the only ones that may
change, and every byte of both memories reads as before. (`fresh` is the model's counter of free values.) -/
def Obligations.RegisterMicroOpsFrame : Prop :=
  ∀ s : State,
    (∀ t, exec .uInit s = .next t →
      t = { s with h := t.h, pidx := t.pidx, phase := t.phase, busy := t.busy, done := t.done } ∧
      (∀ a, t.msgByte a = s.msgByte a ∧ t.pb.read a = s.pb.read a)) ∧
    (∀ t, exec .uLoadv s = .next t →
      t = { s with v := t.v, t := t.t, phase := t.phase, fresh := t.fresh } ∧
      (∀ a, t.msgByte a = s.msgByte a ∧ t.pb.read a = s.pb.read a)) ∧
    (∀ t, exec .uRound s = .next t →
      t = { s with v := t.v, t := t.t, phase := t.phase, fresh := t.fresh } ∧
      (∀ a, t.msgByte a = s.msgByte a ∧ t.pb.read a = s.pb.read a)) ∧
    (∀ t, exec .uFold s = .next t →
      t = { s with h := t.h, blk := t.blk, t := t.t, phase := t.phase, busy := t.busy, done := t.done,
                   fresh := t.fresh } ∧
      (∀ a, t.msgByte a = s.msgByte a ∧ t.pb.read a = s.pb.read a))

/-- Frames of U_LOADW and U_EXPAND (42 R164, R165): of W only W[T] may change; the other fields named are the only ones
that may change, and every byte of both memories reads as before. -/
def Obligations.ScheduleMicroOpsFrame : Prop :=
  ∀ s : State,
    (∀ t, exec .uLoadw s = .next t →
      t = { s with w := t.w, t := t.t, phase := t.phase, fresh := t.fresh } ∧
      (∀ i : Fin 64, i.val ≠ s.t.toNat → t.w[i] = s.w[i]) ∧
      (∀ a, t.msgByte a = s.msgByte a ∧ t.pb.read a = s.pb.read a)) ∧
    (∀ t, exec .uExpand s = .next t →
      t = { s with w := t.w, t := t.t, phase := t.phase, busy := t.busy, done := t.done, fresh := t.fresh } ∧
      (∀ i : Fin 64, i.val ≠ s.t.toNat → t.w[i] = s.w[i]) ∧
      (∀ a, t.msgByte a = s.msgByte a ∧ t.pb.read a = s.pb.read a))

/-- Frame of U_PADBYTE (41 R145), the one instruction that stores: the byte stored to is the PB byte at PIDX; every other PB
byte and every MSG byte reads as before, and no field but those named changes. -/
def Obligations.PadbyteFrame : Prop :=
  ∀ s t : State, exec .uPadbyte s = .next t →
    t = { s with pb := t.pb, pidx := t.pidx, pbv := t.pbv, blk := t.blk, t := t.t, phase := t.phase, busy := t.busy,
                 done := t.done, fresh := t.fresh } ∧
    (∀ a, a ≠ s.pidx.toNat → t.pb.read a = s.pb.read a) ∧ (∀ a, t.msgByte a = s.msgByte a)

/-! ### The HOST's ports -/

/-- 10_state.md R43, 30_encoding.md R104: a HOST read of a register, of MSG or of PB changes no state of the engine, in any
engine condition; the value read is added to the script's results. WAIT is such a read of STATUS, repeated until BUSY =
0 with the ENGINE's turn between (log entry 12). (Log entries 1 and 5 for the two lists and the counter `fresh`, which
are outside the engine.) -/
def Obligations.HostReadsChangeNothing : Prop :=
  ∀ (s : State) (rest : List HostEvent) (n : Nat),
    (s.host = .rd n :: rest → step s =
      .next { s with host := rest, results := s.results ++ [{ s with host := rest }.readReg n], fresh := s.fresh + 1 }) ∧
    (s.host = .msgr n :: rest → step s =
      .next { s with host := rest, results := s.results ++ [{ s with host := rest }.readMsg n], fresh := s.fresh + 1 }) ∧
    (s.host = .pbr n :: rest → step s =
      .next { s with host := rest, results := s.results ++ [{ s with host := rest }.readPB n], fresh := s.fresh + 1 }) ∧
    (s.host = .wait :: rest → step s =
      .next { s with host := if s.busy then .engine :: .wait :: rest else rest,
                     results := s.results ++ [⟨32, s.status⟩], fresh := s.fresh + 1 })

/-- 10_state.md R43, R33, R34, R35, R36, R24, R25 with the numbers of R30: the content a HOST read returns in each engine
condition, wherever the rule does not leave the value unspecified. -/
def Obligations.HostReadValues : Prop :=
  ∀ s : State,
    (∀ i : BitVec 6, s.readReg (0x80 + i.toNat) = ⟨32, Rom.k i⟩) ∧
    (∀ j : Fin 8, s.readReg (0xC0 + j.val) = ⟨32, Rom.h0[j]⟩) ∧
    s.readReg 0x02 = ⟨32, BitVec.ofNat 32 s.fcause.toNat⟩ ∧
    (s.fault = true ∨ s.busy = false →
      s.readReg 0x03 = ⟨64, s.mlen⟩ ∧ s.readReg 0x04 = ⟨64, s.arg⟩ ∧ s.readReg 0x05 = ⟨64, s.plen⟩) ∧
    (s.fault = false → s.busy = false →
      (∀ (j : Fin 8) (x : Word), s.h[j] = some x → s.readReg (0x10 + j.val) = ⟨32, x⟩) ∧
      (∀ (j : Fin 8) (x : Word), s.v[j] = some x → s.readReg (0x18 + j.val) = ⟨32, x⟩) ∧
      (∀ (i : BitVec 6) (x : Word), s.w[i.toNat]'i.isLt = some x → s.readReg (0x40 + i.toNat) = ⟨32, x⟩) ∧
      (∀ x : Vector Word 8, (∀ j : Fin 8, s.h[j] = some x[j]) →
        s.readReg 0x06 = ⟨256, digestView x⟩ ∧ s.readReg 0x07 = ⟨512, hexView x⟩))

/-- 10_state.md R32, R26: the layout of STATUS; with BUSY = 1 the bits BUSY, DONE, FAULT are exact and bits 31:7 are 0. -/
def Obligations.StatusLayout : Prop :=
  ∀ s : State,
    s.readReg 0x01 = ⟨32, s.status⟩ ∧
    s.status.getLsbD 0 = s.busy ∧ s.status.getLsbD 1 = s.done ∧ s.status.getLsbD 2 = s.fault ∧
    (∀ k, 7 ≤ k → s.status.getLsbD k = false) ∧
    (s.busy = false →
      (s.status.getLsbD 3 = true ↔ ∀ j : Fin 8, s.h[j] ≠ none) ∧
      (s.status.getLsbD 4 = true ↔ ∀ i : Fin 64, s.w[i] ≠ none) ∧
      (s.status.getLsbD 5 = true ↔ ∀ j : Fin 8, s.v[j] ≠ none) ∧
      s.status.getLsbD 6 = s.pbv)

/-- 10_state.md R43, R34, R35, R21, R23: what a HOST write does when idle: MLEN and ARG store the value, H[j] and W[t] store
it in that one register, and read-only and unmapped numbers have no effect, in every engine condition. -/
def Obligations.HostWritesWhenIdle : Prop :=
  (∀ (s : State) (rest : List HostEvent), s.idle = true →
    (∀ x, s.host = .wr 0x03 x :: rest → step s = .next { s with host := rest, mlen := x }) ∧
    (∀ x, s.host = .wr 0x04 x :: rest → step s = .next { s with host := rest, arg := x }) ∧
    (∀ (j : Fin 8) (x : Word), s.host = .wr (0x10 + j.val) (x.setWidth 64) :: rest →
      Answers (step s) fun t => t = { s with host := rest, h := t.h } ∧ t.h[j] = some x ∧
        ∀ i : Fin 8, i ≠ j → t.h[i] = s.h[i]) ∧
    (∀ (k : Fin 64) (x : Word), s.host = .wr (0x40 + k.val) (x.setWidth 64) :: rest →
      Answers (step s) fun t => t = { s with host := rest, w := t.w } ∧ t.w[k] = some x ∧
        ∀ i : Fin 64, i ≠ k → t.w[i] = s.w[i])) ∧
  (∀ (s : State) (rest : List HostEvent) (n : Nat) (x : BitVec 64), s.host = .wr n x :: rest →
    (n = 0x01 ∨ n = 0x02 ∨ (0x05 ≤ n ∧ n < 0x10) ∨ (0x18 ≤ n ∧ n < 0x40) ∨ 0x80 ≤ n) →
    step s = .next { s with host := rest })

/-- 10_state.md R40, 93_implementation_defined.md U11: a HOST write to MSG when idle is what MSG then holds at that address
and nowhere else; with FAULT = 1, and beyond MSG_BYTES, it has no effect. MSG reads with BUSY = 0 return the stored byte. What an unwritten
byte reads as, and the missing addresses, are log entries 6 and 11. -/
def Obligations.MsgWriteThenRead : Prop :=
  ∀ (s : State) (a : Nat) (b : Byte) (rest : List HostEvent), s.host = .msgw a b :: rest →
    (inSpace s.par.msgBytes a = true → s.idle = true →
      Answers (step s) fun t => t = { s with host := rest, msg := t.msg } ∧
        t.msgByte a = b ∧ (∀ a', a' ≠ a → t.msgByte a' = s.msgByte a') ∧ t.readMsg a = ⟨8, b⟩) ∧
    (inSpace s.par.msgBytes a = false ∨ s.fault = true → step s = .next { s with host := rest }) ∧
    (s.fault = true → inSpace s.par.msgBytes a = true → s.readMsg a = ⟨8, s.msgByte a⟩)

/-- 10_state.md R41: the HOST reads PB[i] for i < PLEN when idle and PBV = 1. -/
def Obligations.PaddedBufferReadable : Prop :=
  ∀ (s : State) (a : Nat) (b : Byte) (rest : List HostEvent), s.host = .pbr a :: rest →
    s.idle = true → s.pbv = true → a < s.plen.toNat → s.pb.read a = some b →
    Answers (step s) fun t => t.results = s.results ++ [⟨8, b⟩] ∧ ∀ i, t.pb.read i = s.pb.read i

/-- 20_memory.md R71, 60_exceptions.md R258, 10_state.md R34, R35, R36: ownership. An ENGINE turn never changes MSG (R71), MLEN
(R34) or ARG (R35); a HOST write of data to any register or to MSG, when idle, never changes PB, V (R71, R258) or PLEN
(R36). -/
def Obligations.OwnershipOfSpaces : Prop :=
  (∀ s : State, Answers s.engineTurn fun t =>
    t.msg = s.msg ∧ t.epoch = s.epoch ∧ t.mlen = s.mlen ∧ t.arg = s.arg ∧ t.par = s.par) ∧
  (∀ (s t : State) (rest : List HostEvent), s.idle = true → step s = .next t →
    ((∃ n x, n ≠ 0x00 ∧ s.host = .wr n x :: rest) ∨ (∃ a b, s.host = .msgw a b :: rest)) →
    t.pb = s.pb ∧ t.pbv = s.pbv ∧ t.v = s.v ∧ t.plen = s.plen)

/-! ### Data formats and pure functions -/

/-- 40_primitives.md R121, R122: rotation by 1 to 31 and logical shift by 3 or 10, bit by bit. -/
def Obligations.RotateAndShiftBits : Prop :=
  (∀ (x : Word) (n : Nat) (hn : 1 ≤ n ∧ n ≤ 31) (i : Nat), i < 32 →
    (rotr x n hn).getLsbD i = x.getLsbD ((i + n) % 32)) ∧
  (∀ (x : Word) (n : Nat) (hn : n = 3 ∨ n = 10) (i : Nat), i < 32 →
    (shr x n hn).getLsbD i = (decide (i + n ≤ 31) && x.getLsbD (i + n)))

/-- 40_primitives.md R128, R129: Ch selects y or z by x; Maj is 1 where at least two bits are. The last clause is R128's own
inference: "The two terms never both have a 1 in the same bit, so `^` here equals `|` [derived: from the definition]". -/
def Obligations.ChooseAndMajorityBits : Prop :=
  ∀ (x y z : Word) (i : Nat), i < 32 →
    (ch x y z).getLsbD i = (if x.getLsbD i then y.getLsbD i else z.getLsbD i) ∧
    ((maj x y z).getLsbD i = true ↔
      2 ≤ (x.getLsbD i).toNat + (y.getLsbD i).toNat + (z.getLsbD i).toNat) ∧
    ch x y z = (x &&& y) ||| (~~~x &&& z)

/-- 40_primitives.md R124 to R127 with the amounts of 30_encoding.md R94: every output bit of the four sigma functions is
the exclusive-or of the input bits the rotations and shifts name. -/
def Obligations.SigmaBits : Prop :=
  ∀ (x : Word) (i : Nat), i < 32 →
    let r := fun n => x.getLsbD ((i + n) % 32)
    let sh := fun n => decide (i + n ≤ 31) && x.getLsbD (i + n)
    (ssig0 x).getLsbD i = ((r 7 ^^ r 18) ^^ sh 3) ∧ (ssig1 x).getLsbD i = ((r 17 ^^ r 19) ^^ sh 10) ∧
    (bsig0 x).getLsbD i = ((r 2 ^^ r 13) ^^ r 22) ∧ (bsig1 x).getLsbD i = ((r 6 ^^ r 11) ^^ r 25)

/-- 40_primitives.md R131, R133: word_bytes and be32 are inverse, and the first byte is bits 31:24. -/
def Obligations.WordBytesInverse : Prop :=
  (∀ x : Word, ∃ b0 b1 b2 b3, wordBytes x = [b0, b1, b2, b3] ∧ be32 b0 b1 b2 b3 = x) ∧
  (∀ b0 b1 b2 b3 : Byte, wordBytes (be32 b0 b1 b2 b3) = [b0, b1, b2, b3] ∧
    (be32 b0 b1 b2 b3).toNat = b0.toNat * 2 ^ 24 + b1.toNat * 2 ^ 16 + b2.toNat * 2 ^ 8 + b3.toNat)

/-- 41_padding.md R141: the lengths, for every L: plen is the smallest multiple of 64 that holds L + 9 bytes. -/
def Obligations.PaddedLengths : Prop :=
  ∀ L : Nat, plenOf L % 64 = 0 ∧ L + 9 ≤ plenOf L ∧ (∀ n, n % 64 = 0 → L + 9 ≤ n → plenOf L ≤ n) ∧
    blocksOf L * 64 = plenOf L ∧ blocksOf L = (L + 9 + 63) / 64 ∧
    plenOf L = L + 1 + zeroFillOf L + 8 ∧ zeroFillOf L ≤ 63 ∧ (zeroFillOf L = 0 ↔ L % 64 = 55) ∧
    (zeroFillOf L : Int) = (55 - (L : Int)) % 64 ∧
    (blocksOf L = 1 ↔ L ≤ 55) ∧ (blocksOf L = 2 ↔ 56 ≤ L ∧ L ≤ 119)

/-- 30_encoding.md R97, 41_padding.md R140, R142: the padded message, part by part; the last eight bytes are the big-endian
bit length (20_memory.md R62). -/
def Obligations.PaddedMessageFormat : Prop :=
  ∀ (m : Nat → Byte) (L : Nat), L < 2 ^ 61 →
    (pad m L).length = plenOf L ∧
    (∀ i, i < L → (pad m L)[i]? = some (m i)) ∧
    (pad m L)[L]? = some 0x80 ∧
    (∀ i, L + 1 ≤ i → i < plenOf L - 8 → (pad m L)[i]? = some 0x00) ∧
    bytesToNat ((pad m L).drop (plenOf L - 8)) = 8 * L

/-- 41_padding.md R143: pad is injective. R143 marks this as its own inference ("Consequences [derived: from rules R141, R142]"). -/
def Obligations.PadIsInjective : Prop :=
  ∀ (m m' : Nat → Byte) (L L' : Nat), L < 2 ^ 61 → L' < 2 ^ 61 → pad m L = pad m' L' →
    L = L' ∧ ∀ i, i < L → m i = m' i

/-- 42_schedule.md R161, R162: the words of schedule(x). -/
def Obligations.ScheduleWords : Prop :=
  ∀ x : Nat → Byte,
    (∀ t, t ≤ 15 → schedule x t = be32 (x (4 * t)) (x (4 * t + 1)) (x (4 * t + 2)) (x (4 * t + 3))) ∧
    (∀ t, 16 ≤ t → t ≤ 63 →
      schedule x t = ssig1 (schedule x (t - 2)) + schedule x (t - 7) + ssig0 (schedule x (t - 15)) + schedule x (t - 16))

/-- 30_encoding.md R101, 10_state.md R39, 20_memory.md R63: byte 4j+m of the digest is H[j] bits 31-8m to 24-8m, and DIGEST
read most significant byte first is that sequence. -/
def Obligations.DigestBytesInOrder : Prop :=
  ∀ (s : Vector Word 8) (j : Fin 8) (m : Fin 4),
    (digestBytes s)[4 * j.val + m.val]? = some ((s[j]).extractLsb' (24 - 8 * m.val) 8) ∧
    (digestView s).extractLsb' (8 * (31 - (4 * j.val + m.val))) 8 = (s[j]).extractLsb' (24 - 8 * m.val) 8

/-- 44_digest_engine.md R201, 30_encoding.md R102, 10_state.md R39: the hexadecimal string has 64 characters, each in
`[0-9a-f]`, the high nibble first, and the HEX view has the first character in its most significant byte. The order of
the nibbles ("[derived: from rule R101 ...]") and the character codes ("[from general knowledge, not in source]") are
marked in R102 as the spec's own inference (log entry 16). -/
def Obligations.HexStringWellFormed : Prop :=
  ∀ s : Vector Word 8,
    (hexCodes s).length = 64 ∧
    (∀ v : BitVec 4, (v.toNat < 10 → (hexCode v).toNat = 0x30 + v.toNat) ∧
      (10 ≤ v.toNat → (hexCode v).toNat = 0x61 + (v.toNat - 10))) ∧
    (∀ c ∈ hexCodes s, (0x30 ≤ c.toNat ∧ c.toNat ≤ 0x39) ∨ (0x61 ≤ c.toNat ∧ c.toNat ≤ 0x66)) ∧
    (∀ (n : Nat) (b : Byte), (digestBytes s)[n]? = some b →
      (hexCodes s)[2 * n]? = some (hexCode (b.extractLsb' 4 4)) ∧
      (hexCodes s)[2 * n + 1]? = some (hexCode (b.extractLsb' 0 4))) ∧
    (∀ (k : Nat) (c : Byte), (hexCodes s)[k]? = some c → (hexView s).extractLsb' (8 * (63 - k)) 8 = c)

/-! ### The whole machine -/

/-- The invariant of Safety.lean holds after reset. -/
def Obligations.InvariantAtReset : Prop := State.reset.Inv

/-- Every step keeps the invariant, whatever the HOST does: STATUS bits exclusive (10_state.md R32), PHASE fits them (R37), no
counter out of range (R38), a faulted engine holds nothing (60_exceptions.md R250), PBV tells the truth (R32), every operand of the next
micro-operation defined (42_schedule.md R165: "[derived: from rules R164 and this rule]"). The invariant is the model's own. -/
def Obligations.InvariantKept : Prop :=
  ∀ s t : State, s.Inv → step s = .next t → t.Inv

/-- Every step keeps both memories in canonical form and the parameters as they are (10_state.md R45), in every state.
The canonical form is the model's own. -/
def Obligations.CanonicalMemoriesKept : Prop :=
  ∀ s t : State, step s = .next t →
    t.par = s.par ∧ (s.msg.wf = true → t.msg.wf = true) ∧ (s.pb.wf = true → t.pb.wf = true)

/-- 44_digest_engine.md R212: every ENGINE step takes a row of the transition table, the five acceptances take theirs,
FAULTED is left only by reset, and no step changes PHASE in another way. -/
def Obligations.SequencerFollowsTable : Prop :=
  (∀ s : State, s.Inv → s.busy = true → Answers s.engineTurn fun t => TableRow s t) ∧
  (∀ s : State, s.Inv → s.idle = true →
    let b := s.blk.toNat; let k := s.t.toNat; let x := s.pidx.toNat
    Answers (exec .init s) (fun t => t.cur = 1 ∧ t.seqIs Phase.init b k x) ∧
    (s.checkLength = none → Answers (exec .pad s) fun t => t.cur = 2 ∧ t.seqIs Phase.padbyte b k 0) ∧
    (s.checkBlock = none → Answers (exec .schedule s) fun t => t.cur = 3 ∧ t.seqIs Phase.loadw s.arg.toNat 0 x) ∧
    (s.checkOperands = none → Answers (exec .compress s) fun t => t.cur = 4 ∧ t.seqIs Phase.loadv b k x) ∧
    (s.checkLength = none → Answers (exec .hash s) fun t => t.cur = 5 ∧ t.seqIs Phase.init b k x)) ∧
  (∀ s t : State, s.Inv → step s = .next t → s.phase = Phase.faulted → (∀ rest, s.host ≠ .reset :: rest) →
    t.phase = Phase.faulted) ∧
  (∀ s t : State, s.Inv → step s = .next t →
    t.phase = s.phase ∨ (s.busy = true ∧ TableRow s t) ∨
      (s.idle = true ∧ t.busy = true ∧ ∃ x rest, s.host = .wr 0x00 x :: rest) ∨
      (t.fault = true ∧ t.phase = Phase.faulted) ∨ (∃ rest, s.host = .reset :: rest))

/-- 44_digest_engine.md R218: from every state with BUSY = 1 that the machine can be in, if the HOST does nothing, the
command completes after finitely many ENGINE steps, without a fault. R218 marks this
as its own inference ("[derived: from rule R212 and 10_state.md rule R43]"). -/
def Obligations.CommandsComplete : Prop :=
  ∀ s : State, s.Inv → s.busy = true → s.host = [] →
    ∃ n t, run n s = .next t ∧ t.busy = false ∧ t.done = true ∧ t.fault = false ∧ t.phase = Phase.idle

/-- 41_padding.md R144 (70_reset_and_hazards.md R290 for the count): PAD from any idle state whose length passes the checks
ends after PLEN ENGINE steps with PB = pad(m), PLEN = plen(L), PBV = 1, and H, V, W, MLEN, ARG, MSG unchanged. -/
def Obligations.PadComputesPadding : Prop :=
  ∀ s : State, s.idle = true → s.checkLength = none → s.host = [.wr 0x00 0x00000002#64] →
    let L := s.mlen.toNat
    Answers (run (1 + plenOf L) s) fun t =>
      t = { s with pb := t.pb, plen := t.plen, pbv := true, done := true, busy := false, phase := Phase.idle,
                   cur := Op.pad, pidx := t.pidx, host := [], fresh := t.fresh } ∧
      t.plen.toNat = plenOf L ∧
      (∀ i, i < plenOf L → t.pb.read i = (pad s.msgByte L)[i]?) ∧
      (∀ i, plenOf L ≤ i → t.pb.read i = none)

/-- 42_schedule.md R163 (R290 for the count): SCHEDULE k on a Padded Buffer with block k = x ends after 64 ENGINE steps with
W = schedule(x), WV = 1, and H, V, PB, PLEN, MLEN, ARG unchanged. -/
def Obligations.ScheduleComputesSchedule : Prop :=
  ∀ (s : State) (x : Nat → Byte), s.idle = true → s.pbv = true → s.plen.toNat ≤ 2 ^ 61 + 64 →
    s.arg.toNat < s.plen.toNat / 64 →
    (∀ j, j < 64 → s.pb.read (64 * s.arg.toNat + j) = some (x j)) →
    s.host = [.wr 0x00 0x00000003#64] →
    Answers (run (1 + 64) s) fun t =>
      t = { s with w := t.w, done := true, busy := false, phase := Phase.idle, cur := Op.schedule, blk := t.blk,
                   t := t.t, host := [], fresh := t.fresh } ∧
      (∀ i : Fin 64, t.w[i] = some (schedule x i.val)) ∧ t.wv = true

/-- 43_compress.md R186 (R290 for the count): COMPRESS on defined H = s0 and W = w ends after 66 ENGINE steps with H =
compress(s0, w), V = compress(s0, w) - s0, VV = 1, and W, PB, PLEN, MLEN, ARG unchanged. -/
def Obligations.CompressComputesCompression : Prop :=
  ∀ (s : State) (s0 : Vector Word 8) (w : Nat → Word), s.idle = true →
    (∀ j : Fin 8, s.h[j] = some s0[j]) → (∀ i : Fin 64, s.w[i] = some (w i.val)) →
    s.host = [.wr 0x00 0x00000004#64] →
    Answers (run (1 + 66) s) fun t =>
      t = { s with h := t.h, v := t.v, done := true, busy := false, phase := Phase.idle, cur := Op.compress,
                   t := t.t, host := [], fresh := t.fresh } ∧
      (∀ j : Fin 8, t.h[j] = some (compress s0 w)[j]) ∧
      (∀ j : Fin 8, t.v[j] = some ((compress s0 w)[j] - s0[j])) ∧ t.vv = true

/-- 44_digest_engine.md R207 (R290 for the count): HASH from any idle state whose length passes the checks, whatever H, W, V
and PB held, ends after 2 + 194 N ENGINE steps with H = hash_words(m), PLEN = plen(L), PB, W and V undef, and MLEN, ARG,
MSG unchanged. -/
def Obligations.HashComputesDigest : Prop :=
  ∀ s : State, s.idle = true → s.checkLength = none → s.host = [.wr 0x00 0x00000005#64] →
    let L := s.mlen.toNat
    Answers (run (1 + (2 + 194 * blocksOf L)) s) fun t =>
      t = { s with h := t.h, v := t.v, w := t.w, pb := t.pb, pbv := false, plen := t.plen, done := true, busy := false,
                   phase := Phase.idle, cur := Op.hash, blk := t.blk, t := t.t, pidx := t.pidx, host := [],
                   fresh := t.fresh } ∧
      (∀ j : Fin 8, t.h[j] = some (hashWords s.msgByte L)[j]) ∧ t.hv = true ∧
      t.plen.toNat = plenOf L ∧ (∀ i, t.pb.read i = none) ∧
      (∀ j : Fin 8, t.v[j] = none) ∧ (∀ i : Fin 64, t.w[i] = none)

/-- 44_digest_engine.md R203: the digest depends only on MLEN and the message bytes below it, not on what H, V, W, PB,
ARG or anything else held: both scripts have ended well (R217), with the same H. R203 marks this as its own inference
("[derived: from rules R207 and R206 ...]"). -/
def Obligations.HashDependsOnMessageOnly : Prop :=
  ∀ s1 s2 : State, s1.idle = true → s2.idle = true → s1.checkLength = none → s2.checkLength = none →
    s1.host = Script.command .hash → s2.host = Script.command .hash →
    s1.mlen = s2.mlen → (∀ a, a < s1.mlen.toNat → s1.msgByte a = s2.msgByte a) →
    ∃ n t1 t2, run n s1 = .next t1 ∧ run n s2 = .next t2 ∧ t1.GoodEnd true ∧ t2.GoodEnd true ∧ t1.hv = true ∧
      t1.h = t2.h

/-- 44_digest_engine.md R209: INIT, PAD and then SCHEDULE k, COMPRESS for each block in order leave H as HASH does (the
words of R200, see HashComputesDigest), and PB, W and V defined. R209 marks this as its
own inference ("[derived: from rules R207, R212 ...]"). -/
def Obligations.StepwiseHashEqualsHash : Prop :=
  ∀ s : State, s.idle = true → s.checkLength = none → s.host = Script.stepwiseHash (blocksOf s.mlen.toNat) →
    ∃ n t, run n s = .next t ∧ t.GoodEnd true ∧
      (∀ j : Fin 8, t.h[j] = some (hashWords s.msgByte s.mlen.toNat)[j]) ∧
      t.pbv = true ∧ t.wv = true ∧ t.vv = true

/-- 44_digest_engine.md R200, R215, R217, 30_encoding.md R104, R105: the HOST's script for `hash(m)` on an idle engine ends
well, without a fault on the way. It reads STATUS with BUSY = 1 some number of times, then STATUS = 0x0000000a (DONE, HV),
and then the digest of m, as 32 bytes or as 64 characters. How often WAIT reads STATUS with BUSY = 1 rests on the
model's choice of one ENGINE turn between two reads (log entry 12); the statement leaves the number open. -/
def Obligations.HashScriptReadsDigest : Prop :=
  ∀ (s : State) (bs : List Byte), s.idle = true → bs.length < 2 ^ 61 →
    exceeds s.par.msgBytes bs.length = false → exceeds s.par.pbBytes (plenOf bs.length) = false →
    let d := hashWords (bytesOf bs) bs.length
    let endsReading : PortValue → Prop := fun digest =>
      ∃ n t polls, run n s = .next t ∧ SafeRun n s ∧ t.GoodEnd true ∧
        t.results = s.results ++ polls ++ [⟨32, 0x0000000a#32⟩, digest] ∧
        ∀ p ∈ polls, ∃ x : BitVec 32, p = ⟨32, x⟩ ∧ x.getLsbD 0 = true
    (s.host = Script.hash bs → endsReading ⟨256, digestView d⟩) ∧
    (s.host = Script.hashHex bs → endsReading ⟨512, hexView d⟩)

/-- 10_state.md R33, in every state: FCAUSE reads as its code with bits 31:4 zero, and a step that changes it takes a fault
(FAULT from 0 to 1, which FaultsComeFromHostWrites speaks of) or is RESET. -/
def Obligations.FaultCauseWrittenOnlyByFaultEntry : Prop :=
  (∀ s : State, ∃ x : BitVec 32, s.readReg 0x02 = ⟨32, x⟩ ∧ x.extractLsb' 0 4 = s.fcause ∧ x.extractLsb' 4 28 = 0) ∧
  ∀ s t : State, step s = .next t → t.fcause ≠ s.fcause →
    (s.fault = false ∧ t.fault = true) ∨ ∃ rest, s.host = .reset :: rest
end

