-- ==== Sys2Proof/Laws/State.lean ====
section
/-! SUPPORT. What each named update of State leaves in each field: one lemma per field per update, true by unfolding,
so that no proof unfolds a record update. -/

namespace Sys2Proof.Machine

/-! setH -/

@[simp] theorem State.setH_par (s : State) (j : Fin 8) (x : Word) : (s.setH j x).par = s.par := rfl
@[simp] theorem State.setH_h (s : State) (j : Fin 8) (x : Word) : (s.setH j x).h = s.h.set j (some x) := rfl
@[simp] theorem State.setH_v (s : State) (j : Fin 8) (x : Word) : (s.setH j x).v = s.v := rfl
@[simp] theorem State.setH_w (s : State) (j : Fin 8) (x : Word) : (s.setH j x).w = s.w := rfl
@[simp] theorem State.setH_msg (s : State) (j : Fin 8) (x : Word) : (s.setH j x).msg = s.msg := rfl
@[simp] theorem State.setH_pb (s : State) (j : Fin 8) (x : Word) : (s.setH j x).pb = s.pb := rfl
@[simp] theorem State.setH_mlen (s : State) (j : Fin 8) (x : Word) : (s.setH j x).mlen = s.mlen := rfl
@[simp] theorem State.setH_arg (s : State) (j : Fin 8) (x : Word) : (s.setH j x).arg = s.arg := rfl
@[simp] theorem State.setH_plen (s : State) (j : Fin 8) (x : Word) : (s.setH j x).plen = s.plen := rfl
@[simp] theorem State.setH_busy (s : State) (j : Fin 8) (x : Word) : (s.setH j x).busy = s.busy := rfl
@[simp] theorem State.setH_done (s : State) (j : Fin 8) (x : Word) : (s.setH j x).done = s.done := rfl
@[simp] theorem State.setH_fault (s : State) (j : Fin 8) (x : Word) : (s.setH j x).fault = s.fault := rfl
@[simp] theorem State.setH_pbv (s : State) (j : Fin 8) (x : Word) : (s.setH j x).pbv = s.pbv := rfl
@[simp] theorem State.setH_fcause (s : State) (j : Fin 8) (x : Word) : (s.setH j x).fcause = s.fcause := rfl
@[simp] theorem State.setH_cur (s : State) (j : Fin 8) (x : Word) : (s.setH j x).cur = s.cur := rfl
@[simp] theorem State.setH_phase (s : State) (j : Fin 8) (x : Word) : (s.setH j x).phase = s.phase := rfl
@[simp] theorem State.setH_blk (s : State) (j : Fin 8) (x : Word) : (s.setH j x).blk = s.blk := rfl
@[simp] theorem State.setH_t (s : State) (j : Fin 8) (x : Word) : (s.setH j x).t = s.t := rfl
@[simp] theorem State.setH_pidx (s : State) (j : Fin 8) (x : Word) : (s.setH j x).pidx = s.pidx := rfl
@[simp] theorem State.setH_host (s : State) (j : Fin 8) (x : Word) : (s.setH j x).host = s.host := rfl
@[simp] theorem State.setH_results (s : State) (j : Fin 8) (x : Word) : (s.setH j x).results = s.results := rfl
@[simp] theorem State.setH_fresh (s : State) (j : Fin 8) (x : Word) : (s.setH j x).fresh = s.fresh := rfl
@[simp] theorem State.setH_epoch (s : State) (j : Fin 8) (x : Word) : (s.setH j x).epoch = s.epoch := rfl

/-! setW -/

@[simp] theorem State.setW_par (s : State) (i : BitVec 6) (x : Word) : (s.setW i x).par = s.par := rfl
@[simp] theorem State.setW_h (s : State) (i : BitVec 6) (x : Word) : (s.setW i x).h = s.h := rfl
@[simp] theorem State.setW_v (s : State) (i : BitVec 6) (x : Word) : (s.setW i x).v = s.v := rfl
@[simp] theorem State.setW_w (s : State) (i : BitVec 6) (x : Word) : (s.setW i x).w = s.w.set i.toNat (some x) i.isLt := rfl
@[simp] theorem State.setW_msg (s : State) (i : BitVec 6) (x : Word) : (s.setW i x).msg = s.msg := rfl
@[simp] theorem State.setW_pb (s : State) (i : BitVec 6) (x : Word) : (s.setW i x).pb = s.pb := rfl
@[simp] theorem State.setW_mlen (s : State) (i : BitVec 6) (x : Word) : (s.setW i x).mlen = s.mlen := rfl
@[simp] theorem State.setW_arg (s : State) (i : BitVec 6) (x : Word) : (s.setW i x).arg = s.arg := rfl
@[simp] theorem State.setW_plen (s : State) (i : BitVec 6) (x : Word) : (s.setW i x).plen = s.plen := rfl
@[simp] theorem State.setW_busy (s : State) (i : BitVec 6) (x : Word) : (s.setW i x).busy = s.busy := rfl
@[simp] theorem State.setW_done (s : State) (i : BitVec 6) (x : Word) : (s.setW i x).done = s.done := rfl
@[simp] theorem State.setW_fault (s : State) (i : BitVec 6) (x : Word) : (s.setW i x).fault = s.fault := rfl
@[simp] theorem State.setW_pbv (s : State) (i : BitVec 6) (x : Word) : (s.setW i x).pbv = s.pbv := rfl
@[simp] theorem State.setW_fcause (s : State) (i : BitVec 6) (x : Word) : (s.setW i x).fcause = s.fcause := rfl
@[simp] theorem State.setW_cur (s : State) (i : BitVec 6) (x : Word) : (s.setW i x).cur = s.cur := rfl
@[simp] theorem State.setW_phase (s : State) (i : BitVec 6) (x : Word) : (s.setW i x).phase = s.phase := rfl
@[simp] theorem State.setW_blk (s : State) (i : BitVec 6) (x : Word) : (s.setW i x).blk = s.blk := rfl
@[simp] theorem State.setW_t (s : State) (i : BitVec 6) (x : Word) : (s.setW i x).t = s.t := rfl
@[simp] theorem State.setW_pidx (s : State) (i : BitVec 6) (x : Word) : (s.setW i x).pidx = s.pidx := rfl
@[simp] theorem State.setW_host (s : State) (i : BitVec 6) (x : Word) : (s.setW i x).host = s.host := rfl
@[simp] theorem State.setW_results (s : State) (i : BitVec 6) (x : Word) : (s.setW i x).results = s.results := rfl
@[simp] theorem State.setW_fresh (s : State) (i : BitVec 6) (x : Word) : (s.setW i x).fresh = s.fresh := rfl
@[simp] theorem State.setW_epoch (s : State) (i : BitVec 6) (x : Word) : (s.setW i x).epoch = s.epoch := rfl

/-! setAllH -/

@[simp] theorem State.setAllH_par (s : State) (x : Vector Word 8) : (s.setAllH x).par = s.par := rfl
@[simp] theorem State.setAllH_h (s : State) (x : Vector Word 8) : (s.setAllH x).h = defined8 x := rfl
@[simp] theorem State.setAllH_v (s : State) (x : Vector Word 8) : (s.setAllH x).v = s.v := rfl
@[simp] theorem State.setAllH_w (s : State) (x : Vector Word 8) : (s.setAllH x).w = s.w := rfl
@[simp] theorem State.setAllH_msg (s : State) (x : Vector Word 8) : (s.setAllH x).msg = s.msg := rfl
@[simp] theorem State.setAllH_pb (s : State) (x : Vector Word 8) : (s.setAllH x).pb = s.pb := rfl
@[simp] theorem State.setAllH_mlen (s : State) (x : Vector Word 8) : (s.setAllH x).mlen = s.mlen := rfl
@[simp] theorem State.setAllH_arg (s : State) (x : Vector Word 8) : (s.setAllH x).arg = s.arg := rfl
@[simp] theorem State.setAllH_plen (s : State) (x : Vector Word 8) : (s.setAllH x).plen = s.plen := rfl
@[simp] theorem State.setAllH_busy (s : State) (x : Vector Word 8) : (s.setAllH x).busy = s.busy := rfl
@[simp] theorem State.setAllH_done (s : State) (x : Vector Word 8) : (s.setAllH x).done = s.done := rfl
@[simp] theorem State.setAllH_fault (s : State) (x : Vector Word 8) : (s.setAllH x).fault = s.fault := rfl
@[simp] theorem State.setAllH_pbv (s : State) (x : Vector Word 8) : (s.setAllH x).pbv = s.pbv := rfl
@[simp] theorem State.setAllH_fcause (s : State) (x : Vector Word 8) : (s.setAllH x).fcause = s.fcause := rfl
@[simp] theorem State.setAllH_cur (s : State) (x : Vector Word 8) : (s.setAllH x).cur = s.cur := rfl
@[simp] theorem State.setAllH_phase (s : State) (x : Vector Word 8) : (s.setAllH x).phase = s.phase := rfl
@[simp] theorem State.setAllH_blk (s : State) (x : Vector Word 8) : (s.setAllH x).blk = s.blk := rfl
@[simp] theorem State.setAllH_t (s : State) (x : Vector Word 8) : (s.setAllH x).t = s.t := rfl
@[simp] theorem State.setAllH_pidx (s : State) (x : Vector Word 8) : (s.setAllH x).pidx = s.pidx := rfl
@[simp] theorem State.setAllH_host (s : State) (x : Vector Word 8) : (s.setAllH x).host = s.host := rfl
@[simp] theorem State.setAllH_results (s : State) (x : Vector Word 8) : (s.setAllH x).results = s.results := rfl
@[simp] theorem State.setAllH_fresh (s : State) (x : Vector Word 8) : (s.setAllH x).fresh = s.fresh := rfl
@[simp] theorem State.setAllH_epoch (s : State) (x : Vector Word 8) : (s.setAllH x).epoch = s.epoch := rfl

/-! setAllV -/

@[simp] theorem State.setAllV_par (s : State) (x : Vector Word 8) : (s.setAllV x).par = s.par := rfl
@[simp] theorem State.setAllV_h (s : State) (x : Vector Word 8) : (s.setAllV x).h = s.h := rfl
@[simp] theorem State.setAllV_v (s : State) (x : Vector Word 8) : (s.setAllV x).v = defined8 x := rfl
@[simp] theorem State.setAllV_w (s : State) (x : Vector Word 8) : (s.setAllV x).w = s.w := rfl
@[simp] theorem State.setAllV_msg (s : State) (x : Vector Word 8) : (s.setAllV x).msg = s.msg := rfl
@[simp] theorem State.setAllV_pb (s : State) (x : Vector Word 8) : (s.setAllV x).pb = s.pb := rfl
@[simp] theorem State.setAllV_mlen (s : State) (x : Vector Word 8) : (s.setAllV x).mlen = s.mlen := rfl
@[simp] theorem State.setAllV_arg (s : State) (x : Vector Word 8) : (s.setAllV x).arg = s.arg := rfl
@[simp] theorem State.setAllV_plen (s : State) (x : Vector Word 8) : (s.setAllV x).plen = s.plen := rfl
@[simp] theorem State.setAllV_busy (s : State) (x : Vector Word 8) : (s.setAllV x).busy = s.busy := rfl
@[simp] theorem State.setAllV_done (s : State) (x : Vector Word 8) : (s.setAllV x).done = s.done := rfl
@[simp] theorem State.setAllV_fault (s : State) (x : Vector Word 8) : (s.setAllV x).fault = s.fault := rfl
@[simp] theorem State.setAllV_pbv (s : State) (x : Vector Word 8) : (s.setAllV x).pbv = s.pbv := rfl
@[simp] theorem State.setAllV_fcause (s : State) (x : Vector Word 8) : (s.setAllV x).fcause = s.fcause := rfl
@[simp] theorem State.setAllV_cur (s : State) (x : Vector Word 8) : (s.setAllV x).cur = s.cur := rfl
@[simp] theorem State.setAllV_phase (s : State) (x : Vector Word 8) : (s.setAllV x).phase = s.phase := rfl
@[simp] theorem State.setAllV_blk (s : State) (x : Vector Word 8) : (s.setAllV x).blk = s.blk := rfl
@[simp] theorem State.setAllV_t (s : State) (x : Vector Word 8) : (s.setAllV x).t = s.t := rfl
@[simp] theorem State.setAllV_pidx (s : State) (x : Vector Word 8) : (s.setAllV x).pidx = s.pidx := rfl
@[simp] theorem State.setAllV_host (s : State) (x : Vector Word 8) : (s.setAllV x).host = s.host := rfl
@[simp] theorem State.setAllV_results (s : State) (x : Vector Word 8) : (s.setAllV x).results = s.results := rfl
@[simp] theorem State.setAllV_fresh (s : State) (x : Vector Word 8) : (s.setAllV x).fresh = s.fresh := rfl
@[simp] theorem State.setAllV_epoch (s : State) (x : Vector Word 8) : (s.setAllV x).epoch = s.epoch := rfl

/-! undefineVW -/

@[simp] theorem State.undefineVW_par (s : State) : (s.undefineVW).par = s.par := rfl
@[simp] theorem State.undefineVW_h (s : State) : (s.undefineVW).h = s.h := rfl
@[simp] theorem State.undefineVW_v (s : State) : (s.undefineVW).v = Vector.replicate 8 none := rfl
@[simp] theorem State.undefineVW_w (s : State) : (s.undefineVW).w = Vector.replicate 64 none := rfl
@[simp] theorem State.undefineVW_msg (s : State) : (s.undefineVW).msg = s.msg := rfl
@[simp] theorem State.undefineVW_pb (s : State) : (s.undefineVW).pb = s.pb := rfl
@[simp] theorem State.undefineVW_mlen (s : State) : (s.undefineVW).mlen = s.mlen := rfl
@[simp] theorem State.undefineVW_arg (s : State) : (s.undefineVW).arg = s.arg := rfl
@[simp] theorem State.undefineVW_plen (s : State) : (s.undefineVW).plen = s.plen := rfl
@[simp] theorem State.undefineVW_busy (s : State) : (s.undefineVW).busy = s.busy := rfl
@[simp] theorem State.undefineVW_done (s : State) : (s.undefineVW).done = s.done := rfl
@[simp] theorem State.undefineVW_fault (s : State) : (s.undefineVW).fault = s.fault := rfl
@[simp] theorem State.undefineVW_pbv (s : State) : (s.undefineVW).pbv = s.pbv := rfl
@[simp] theorem State.undefineVW_fcause (s : State) : (s.undefineVW).fcause = s.fcause := rfl
@[simp] theorem State.undefineVW_cur (s : State) : (s.undefineVW).cur = s.cur := rfl
@[simp] theorem State.undefineVW_phase (s : State) : (s.undefineVW).phase = s.phase := rfl
@[simp] theorem State.undefineVW_blk (s : State) : (s.undefineVW).blk = s.blk := rfl
@[simp] theorem State.undefineVW_t (s : State) : (s.undefineVW).t = s.t := rfl
@[simp] theorem State.undefineVW_pidx (s : State) : (s.undefineVW).pidx = s.pidx := rfl
@[simp] theorem State.undefineVW_host (s : State) : (s.undefineVW).host = s.host := rfl
@[simp] theorem State.undefineVW_results (s : State) : (s.undefineVW).results = s.results := rfl
@[simp] theorem State.undefineVW_fresh (s : State) : (s.undefineVW).fresh = s.fresh := rfl
@[simp] theorem State.undefineVW_epoch (s : State) : (s.undefineVW).epoch = s.epoch := rfl

/-! discardPB -/

@[simp] theorem State.discardPB_par (s : State) : (s.discardPB).par = s.par := rfl
@[simp] theorem State.discardPB_h (s : State) : (s.discardPB).h = s.h := rfl
@[simp] theorem State.discardPB_v (s : State) : (s.discardPB).v = s.v := rfl
@[simp] theorem State.discardPB_w (s : State) : (s.discardPB).w = s.w := rfl
@[simp] theorem State.discardPB_msg (s : State) : (s.discardPB).msg = s.msg := rfl
@[simp] theorem State.discardPB_pb (s : State) : (s.discardPB).pb = [] := rfl
@[simp] theorem State.discardPB_mlen (s : State) : (s.discardPB).mlen = s.mlen := rfl
@[simp] theorem State.discardPB_arg (s : State) : (s.discardPB).arg = s.arg := rfl
@[simp] theorem State.discardPB_plen (s : State) : (s.discardPB).plen = s.plen := rfl
@[simp] theorem State.discardPB_busy (s : State) : (s.discardPB).busy = s.busy := rfl
@[simp] theorem State.discardPB_done (s : State) : (s.discardPB).done = s.done := rfl
@[simp] theorem State.discardPB_fault (s : State) : (s.discardPB).fault = s.fault := rfl
@[simp] theorem State.discardPB_pbv (s : State) : (s.discardPB).pbv = false := rfl
@[simp] theorem State.discardPB_fcause (s : State) : (s.discardPB).fcause = s.fcause := rfl
@[simp] theorem State.discardPB_cur (s : State) : (s.discardPB).cur = s.cur := rfl
@[simp] theorem State.discardPB_phase (s : State) : (s.discardPB).phase = s.phase := rfl
@[simp] theorem State.discardPB_blk (s : State) : (s.discardPB).blk = s.blk := rfl
@[simp] theorem State.discardPB_t (s : State) : (s.discardPB).t = s.t := rfl
@[simp] theorem State.discardPB_pidx (s : State) : (s.discardPB).pidx = s.pidx := rfl
@[simp] theorem State.discardPB_host (s : State) : (s.discardPB).host = s.host := rfl
@[simp] theorem State.discardPB_results (s : State) : (s.discardPB).results = s.results := rfl
@[simp] theorem State.discardPB_fresh (s : State) : (s.discardPB).fresh = s.fresh := rfl
@[simp] theorem State.discardPB_epoch (s : State) : (s.discardPB).epoch = s.epoch := rfl

/-! writePB -/

@[simp] theorem State.writePB_par (s : State) (i : Nat) (b : Byte) : (s.writePB i b).par = s.par := rfl
@[simp] theorem State.writePB_h (s : State) (i : Nat) (b : Byte) : (s.writePB i b).h = s.h := rfl
@[simp] theorem State.writePB_v (s : State) (i : Nat) (b : Byte) : (s.writePB i b).v = s.v := rfl
@[simp] theorem State.writePB_w (s : State) (i : Nat) (b : Byte) : (s.writePB i b).w = s.w := rfl
@[simp] theorem State.writePB_msg (s : State) (i : Nat) (b : Byte) : (s.writePB i b).msg = s.msg := rfl
@[simp] theorem State.writePB_pb (s : State) (i : Nat) (b : Byte) : (s.writePB i b).pb = s.pb.write i b := rfl
@[simp] theorem State.writePB_mlen (s : State) (i : Nat) (b : Byte) : (s.writePB i b).mlen = s.mlen := rfl
@[simp] theorem State.writePB_arg (s : State) (i : Nat) (b : Byte) : (s.writePB i b).arg = s.arg := rfl
@[simp] theorem State.writePB_plen (s : State) (i : Nat) (b : Byte) : (s.writePB i b).plen = s.plen := rfl
@[simp] theorem State.writePB_busy (s : State) (i : Nat) (b : Byte) : (s.writePB i b).busy = s.busy := rfl
@[simp] theorem State.writePB_done (s : State) (i : Nat) (b : Byte) : (s.writePB i b).done = s.done := rfl
@[simp] theorem State.writePB_fault (s : State) (i : Nat) (b : Byte) : (s.writePB i b).fault = s.fault := rfl
@[simp] theorem State.writePB_pbv (s : State) (i : Nat) (b : Byte) : (s.writePB i b).pbv = s.pbv := rfl
@[simp] theorem State.writePB_fcause (s : State) (i : Nat) (b : Byte) : (s.writePB i b).fcause = s.fcause := rfl
@[simp] theorem State.writePB_cur (s : State) (i : Nat) (b : Byte) : (s.writePB i b).cur = s.cur := rfl
@[simp] theorem State.writePB_phase (s : State) (i : Nat) (b : Byte) : (s.writePB i b).phase = s.phase := rfl
@[simp] theorem State.writePB_blk (s : State) (i : Nat) (b : Byte) : (s.writePB i b).blk = s.blk := rfl
@[simp] theorem State.writePB_t (s : State) (i : Nat) (b : Byte) : (s.writePB i b).t = s.t := rfl
@[simp] theorem State.writePB_pidx (s : State) (i : Nat) (b : Byte) : (s.writePB i b).pidx = s.pidx := rfl
@[simp] theorem State.writePB_host (s : State) (i : Nat) (b : Byte) : (s.writePB i b).host = s.host := rfl
@[simp] theorem State.writePB_results (s : State) (i : Nat) (b : Byte) : (s.writePB i b).results = s.results := rfl
@[simp] theorem State.writePB_fresh (s : State) (i : Nat) (b : Byte) : (s.writePB i b).fresh = s.fresh := rfl
@[simp] theorem State.writePB_epoch (s : State) (i : Nat) (b : Byte) : (s.writePB i b).epoch = s.epoch := rfl

/-! openBuffer -/

@[simp] theorem State.openBuffer_par (s : State) : (s.openBuffer).par = s.par := rfl
@[simp] theorem State.openBuffer_h (s : State) : (s.openBuffer).h = s.h := rfl
@[simp] theorem State.openBuffer_v (s : State) : (s.openBuffer).v = s.v := rfl
@[simp] theorem State.openBuffer_w (s : State) : (s.openBuffer).w = s.w := rfl
@[simp] theorem State.openBuffer_msg (s : State) : (s.openBuffer).msg = s.msg := rfl
@[simp] theorem State.openBuffer_pb (s : State) : (s.openBuffer).pb = [] := rfl
@[simp] theorem State.openBuffer_mlen (s : State) : (s.openBuffer).mlen = s.mlen := rfl
@[simp] theorem State.openBuffer_arg (s : State) : (s.openBuffer).arg = s.arg := rfl
@[simp] theorem State.openBuffer_plen (s : State) : (s.openBuffer).plen = BitVec.ofNat 64 (plenOf s.mlen.toNat) := rfl
@[simp] theorem State.openBuffer_busy (s : State) : (s.openBuffer).busy = s.busy := rfl
@[simp] theorem State.openBuffer_done (s : State) : (s.openBuffer).done = s.done := rfl
@[simp] theorem State.openBuffer_fault (s : State) : (s.openBuffer).fault = s.fault := rfl
@[simp] theorem State.openBuffer_pbv (s : State) : (s.openBuffer).pbv = false := rfl
@[simp] theorem State.openBuffer_fcause (s : State) : (s.openBuffer).fcause = s.fcause := rfl
@[simp] theorem State.openBuffer_cur (s : State) : (s.openBuffer).cur = s.cur := rfl
@[simp] theorem State.openBuffer_phase (s : State) : (s.openBuffer).phase = s.phase := rfl
@[simp] theorem State.openBuffer_blk (s : State) : (s.openBuffer).blk = s.blk := rfl
@[simp] theorem State.openBuffer_t (s : State) : (s.openBuffer).t = s.t := rfl
@[simp] theorem State.openBuffer_pidx (s : State) : (s.openBuffer).pidx = s.pidx := rfl
@[simp] theorem State.openBuffer_host (s : State) : (s.openBuffer).host = s.host := rfl
@[simp] theorem State.openBuffer_results (s : State) : (s.openBuffer).results = s.results := rfl
@[simp] theorem State.openBuffer_fresh (s : State) : (s.openBuffer).fresh = s.fresh := rfl
@[simp] theorem State.openBuffer_epoch (s : State) : (s.openBuffer).epoch = s.epoch := rfl

/-! goto -/

@[simp] theorem State.goto_par (s : State) (p : BitVec 4) : (s.goto p).par = s.par := rfl
@[simp] theorem State.goto_h (s : State) (p : BitVec 4) : (s.goto p).h = s.h := rfl
@[simp] theorem State.goto_v (s : State) (p : BitVec 4) : (s.goto p).v = s.v := rfl
@[simp] theorem State.goto_w (s : State) (p : BitVec 4) : (s.goto p).w = s.w := rfl
@[simp] theorem State.goto_msg (s : State) (p : BitVec 4) : (s.goto p).msg = s.msg := rfl
@[simp] theorem State.goto_pb (s : State) (p : BitVec 4) : (s.goto p).pb = s.pb := rfl
@[simp] theorem State.goto_mlen (s : State) (p : BitVec 4) : (s.goto p).mlen = s.mlen := rfl
@[simp] theorem State.goto_arg (s : State) (p : BitVec 4) : (s.goto p).arg = s.arg := rfl
@[simp] theorem State.goto_plen (s : State) (p : BitVec 4) : (s.goto p).plen = s.plen := rfl
@[simp] theorem State.goto_busy (s : State) (p : BitVec 4) : (s.goto p).busy = s.busy := rfl
@[simp] theorem State.goto_done (s : State) (p : BitVec 4) : (s.goto p).done = s.done := rfl
@[simp] theorem State.goto_fault (s : State) (p : BitVec 4) : (s.goto p).fault = s.fault := rfl
@[simp] theorem State.goto_pbv (s : State) (p : BitVec 4) : (s.goto p).pbv = s.pbv := rfl
@[simp] theorem State.goto_fcause (s : State) (p : BitVec 4) : (s.goto p).fcause = s.fcause := rfl
@[simp] theorem State.goto_cur (s : State) (p : BitVec 4) : (s.goto p).cur = s.cur := rfl
@[simp] theorem State.goto_phase (s : State) (p : BitVec 4) : (s.goto p).phase = p := rfl
@[simp] theorem State.goto_blk (s : State) (p : BitVec 4) : (s.goto p).blk = s.blk := rfl
@[simp] theorem State.goto_t (s : State) (p : BitVec 4) : (s.goto p).t = s.t := rfl
@[simp] theorem State.goto_pidx (s : State) (p : BitVec 4) : (s.goto p).pidx = s.pidx := rfl
@[simp] theorem State.goto_host (s : State) (p : BitVec 4) : (s.goto p).host = s.host := rfl
@[simp] theorem State.goto_results (s : State) (p : BitVec 4) : (s.goto p).results = s.results := rfl
@[simp] theorem State.goto_fresh (s : State) (p : BitVec 4) : (s.goto p).fresh = s.fresh := rfl
@[simp] theorem State.goto_epoch (s : State) (p : BitVec 4) : (s.goto p).epoch = s.epoch := rfl

/-! complete -/

@[simp] theorem State.complete_par (s : State) : (s.complete).par = s.par := rfl
@[simp] theorem State.complete_h (s : State) : (s.complete).h = s.h := rfl
@[simp] theorem State.complete_v (s : State) : (s.complete).v = s.v := rfl
@[simp] theorem State.complete_w (s : State) : (s.complete).w = s.w := rfl
@[simp] theorem State.complete_msg (s : State) : (s.complete).msg = s.msg := rfl
@[simp] theorem State.complete_pb (s : State) : (s.complete).pb = s.pb := rfl
@[simp] theorem State.complete_mlen (s : State) : (s.complete).mlen = s.mlen := rfl
@[simp] theorem State.complete_arg (s : State) : (s.complete).arg = s.arg := rfl
@[simp] theorem State.complete_plen (s : State) : (s.complete).plen = s.plen := rfl
@[simp] theorem State.complete_busy (s : State) : (s.complete).busy = false := rfl
@[simp] theorem State.complete_done (s : State) : (s.complete).done = true := rfl
@[simp] theorem State.complete_fault (s : State) : (s.complete).fault = s.fault := rfl
@[simp] theorem State.complete_pbv (s : State) : (s.complete).pbv = s.pbv := rfl
@[simp] theorem State.complete_fcause (s : State) : (s.complete).fcause = s.fcause := rfl
@[simp] theorem State.complete_cur (s : State) : (s.complete).cur = s.cur := rfl
@[simp] theorem State.complete_phase (s : State) : (s.complete).phase = Phase.idle := rfl
@[simp] theorem State.complete_blk (s : State) : (s.complete).blk = s.blk := rfl
@[simp] theorem State.complete_t (s : State) : (s.complete).t = s.t := rfl
@[simp] theorem State.complete_pidx (s : State) : (s.complete).pidx = s.pidx := rfl
@[simp] theorem State.complete_host (s : State) : (s.complete).host = s.host := rfl
@[simp] theorem State.complete_results (s : State) : (s.complete).results = s.results := rfl
@[simp] theorem State.complete_fresh (s : State) : (s.complete).fresh = s.fresh := rfl
@[simp] theorem State.complete_epoch (s : State) : (s.complete).epoch = s.epoch := rfl

/-! accept -/

@[simp] theorem State.accept_par (s : State) (op : BitVec 4) : (s.accept op).par = s.par := rfl
@[simp] theorem State.accept_h (s : State) (op : BitVec 4) : (s.accept op).h = s.h := rfl
@[simp] theorem State.accept_v (s : State) (op : BitVec 4) : (s.accept op).v = s.v := rfl
@[simp] theorem State.accept_w (s : State) (op : BitVec 4) : (s.accept op).w = s.w := rfl
@[simp] theorem State.accept_msg (s : State) (op : BitVec 4) : (s.accept op).msg = s.msg := rfl
@[simp] theorem State.accept_pb (s : State) (op : BitVec 4) : (s.accept op).pb = s.pb := rfl
@[simp] theorem State.accept_mlen (s : State) (op : BitVec 4) : (s.accept op).mlen = s.mlen := rfl
@[simp] theorem State.accept_arg (s : State) (op : BitVec 4) : (s.accept op).arg = s.arg := rfl
@[simp] theorem State.accept_plen (s : State) (op : BitVec 4) : (s.accept op).plen = s.plen := rfl
@[simp] theorem State.accept_busy (s : State) (op : BitVec 4) : (s.accept op).busy = true := rfl
@[simp] theorem State.accept_done (s : State) (op : BitVec 4) : (s.accept op).done = false := rfl
@[simp] theorem State.accept_fault (s : State) (op : BitVec 4) : (s.accept op).fault = s.fault := rfl
@[simp] theorem State.accept_pbv (s : State) (op : BitVec 4) : (s.accept op).pbv = s.pbv := rfl
@[simp] theorem State.accept_fcause (s : State) (op : BitVec 4) : (s.accept op).fcause = s.fcause := rfl
@[simp] theorem State.accept_cur (s : State) (op : BitVec 4) : (s.accept op).cur = op := rfl
@[simp] theorem State.accept_phase (s : State) (op : BitVec 4) : (s.accept op).phase = s.phase := rfl
@[simp] theorem State.accept_blk (s : State) (op : BitVec 4) : (s.accept op).blk = s.blk := rfl
@[simp] theorem State.accept_t (s : State) (op : BitVec 4) : (s.accept op).t = s.t := rfl
@[simp] theorem State.accept_pidx (s : State) (op : BitVec 4) : (s.accept op).pidx = s.pidx := rfl
@[simp] theorem State.accept_host (s : State) (op : BitVec 4) : (s.accept op).host = s.host := rfl
@[simp] theorem State.accept_results (s : State) (op : BitVec 4) : (s.accept op).results = s.results := rfl
@[simp] theorem State.accept_fresh (s : State) (op : BitVec 4) : (s.accept op).fresh = s.fresh := rfl
@[simp] theorem State.accept_epoch (s : State) (op : BitVec 4) : (s.accept op).epoch = s.epoch := rfl

/-! tick -/

@[simp] theorem State.tick_par (s : State) : (s.tick).par = s.par := rfl
@[simp] theorem State.tick_h (s : State) : (s.tick).h = s.h := rfl
@[simp] theorem State.tick_v (s : State) : (s.tick).v = s.v := rfl
@[simp] theorem State.tick_w (s : State) : (s.tick).w = s.w := rfl
@[simp] theorem State.tick_msg (s : State) : (s.tick).msg = s.msg := rfl
@[simp] theorem State.tick_pb (s : State) : (s.tick).pb = s.pb := rfl
@[simp] theorem State.tick_mlen (s : State) : (s.tick).mlen = s.mlen := rfl
@[simp] theorem State.tick_arg (s : State) : (s.tick).arg = s.arg := rfl
@[simp] theorem State.tick_plen (s : State) : (s.tick).plen = s.plen := rfl
@[simp] theorem State.tick_busy (s : State) : (s.tick).busy = s.busy := rfl
@[simp] theorem State.tick_done (s : State) : (s.tick).done = s.done := rfl
@[simp] theorem State.tick_fault (s : State) : (s.tick).fault = s.fault := rfl
@[simp] theorem State.tick_pbv (s : State) : (s.tick).pbv = s.pbv := rfl
@[simp] theorem State.tick_fcause (s : State) : (s.tick).fcause = s.fcause := rfl
@[simp] theorem State.tick_cur (s : State) : (s.tick).cur = s.cur := rfl
@[simp] theorem State.tick_phase (s : State) : (s.tick).phase = s.phase := rfl
@[simp] theorem State.tick_blk (s : State) : (s.tick).blk = s.blk := rfl
@[simp] theorem State.tick_t (s : State) : (s.tick).t = s.t := rfl
@[simp] theorem State.tick_pidx (s : State) : (s.tick).pidx = s.pidx := rfl
@[simp] theorem State.tick_host (s : State) : (s.tick).host = s.host := rfl
@[simp] theorem State.tick_results (s : State) : (s.tick).results = s.results := rfl
@[simp] theorem State.tick_fresh (s : State) : (s.tick).fresh = s.fresh + 1 := rfl
@[simp] theorem State.tick_epoch (s : State) : (s.tick).epoch = s.epoch := rfl

/-! record -/

@[simp] theorem State.record_par (s : State) (x : PortValue) : (s.record x).par = s.par := rfl
@[simp] theorem State.record_h (s : State) (x : PortValue) : (s.record x).h = s.h := rfl
@[simp] theorem State.record_v (s : State) (x : PortValue) : (s.record x).v = s.v := rfl
@[simp] theorem State.record_w (s : State) (x : PortValue) : (s.record x).w = s.w := rfl
@[simp] theorem State.record_msg (s : State) (x : PortValue) : (s.record x).msg = s.msg := rfl
@[simp] theorem State.record_pb (s : State) (x : PortValue) : (s.record x).pb = s.pb := rfl
@[simp] theorem State.record_mlen (s : State) (x : PortValue) : (s.record x).mlen = s.mlen := rfl
@[simp] theorem State.record_arg (s : State) (x : PortValue) : (s.record x).arg = s.arg := rfl
@[simp] theorem State.record_plen (s : State) (x : PortValue) : (s.record x).plen = s.plen := rfl
@[simp] theorem State.record_busy (s : State) (x : PortValue) : (s.record x).busy = s.busy := rfl
@[simp] theorem State.record_done (s : State) (x : PortValue) : (s.record x).done = s.done := rfl
@[simp] theorem State.record_fault (s : State) (x : PortValue) : (s.record x).fault = s.fault := rfl
@[simp] theorem State.record_pbv (s : State) (x : PortValue) : (s.record x).pbv = s.pbv := rfl
@[simp] theorem State.record_fcause (s : State) (x : PortValue) : (s.record x).fcause = s.fcause := rfl
@[simp] theorem State.record_cur (s : State) (x : PortValue) : (s.record x).cur = s.cur := rfl
@[simp] theorem State.record_phase (s : State) (x : PortValue) : (s.record x).phase = s.phase := rfl
@[simp] theorem State.record_blk (s : State) (x : PortValue) : (s.record x).blk = s.blk := rfl
@[simp] theorem State.record_t (s : State) (x : PortValue) : (s.record x).t = s.t := rfl
@[simp] theorem State.record_pidx (s : State) (x : PortValue) : (s.record x).pidx = s.pidx := rfl
@[simp] theorem State.record_host (s : State) (x : PortValue) : (s.record x).host = s.host := rfl
@[simp] theorem State.record_results (s : State) (x : PortValue) : (s.record x).results = s.results ++ [x] := rfl
@[simp] theorem State.record_fresh (s : State) (x : PortValue) : (s.record x).fresh = s.fresh + 1 := rfl
@[simp] theorem State.record_epoch (s : State) (x : PortValue) : (s.record x).epoch = s.epoch := rfl

/-! raise -/

@[simp] theorem State.raise_par (s : State) (c : Cause) : (s.raise c).par = s.par := rfl
@[simp] theorem State.raise_h (s : State) (c : Cause) : (s.raise c).h = Vector.replicate 8 none := rfl
@[simp] theorem State.raise_v (s : State) (c : Cause) : (s.raise c).v = Vector.replicate 8 none := rfl
@[simp] theorem State.raise_w (s : State) (c : Cause) : (s.raise c).w = Vector.replicate 64 none := rfl
@[simp] theorem State.raise_msg (s : State) (c : Cause) : (s.raise c).msg = s.msg := rfl
@[simp] theorem State.raise_pb (s : State) (c : Cause) : (s.raise c).pb = [] := rfl
@[simp] theorem State.raise_mlen (s : State) (c : Cause) : (s.raise c).mlen = s.mlen := rfl
@[simp] theorem State.raise_arg (s : State) (c : Cause) : (s.raise c).arg = s.arg := rfl
@[simp] theorem State.raise_plen (s : State) (c : Cause) : (s.raise c).plen = s.plen := rfl
@[simp] theorem State.raise_busy (s : State) (c : Cause) : (s.raise c).busy = false := rfl
@[simp] theorem State.raise_done (s : State) (c : Cause) : (s.raise c).done = false := rfl
@[simp] theorem State.raise_fault (s : State) (c : Cause) : (s.raise c).fault = true := rfl
@[simp] theorem State.raise_pbv (s : State) (c : Cause) : (s.raise c).pbv = false := rfl
@[simp] theorem State.raise_fcause (s : State) (c : Cause) : (s.raise c).fcause = c.code := rfl
@[simp] theorem State.raise_cur (s : State) (c : Cause) : (s.raise c).cur = s.cur := rfl
@[simp] theorem State.raise_phase (s : State) (c : Cause) : (s.raise c).phase = Phase.faulted := rfl
@[simp] theorem State.raise_blk (s : State) (c : Cause) : (s.raise c).blk = s.blk := rfl
@[simp] theorem State.raise_t (s : State) (c : Cause) : (s.raise c).t = s.t := rfl
@[simp] theorem State.raise_pidx (s : State) (c : Cause) : (s.raise c).pidx = s.pidx := rfl
@[simp] theorem State.raise_host (s : State) (c : Cause) : (s.raise c).host = s.host := rfl
@[simp] theorem State.raise_results (s : State) (c : Cause) : (s.raise c).results = s.results := rfl
@[simp] theorem State.raise_fresh (s : State) (c : Cause) : (s.raise c).fresh = s.fresh := rfl
@[simp] theorem State.raise_epoch (s : State) (c : Cause) : (s.raise c).epoch = s.epoch := rfl

/-! setHost -/

@[simp] theorem State.setHost_par (s : State) (l : List HostEvent) : (s.setHost l).par = s.par := rfl
@[simp] theorem State.setHost_h (s : State) (l : List HostEvent) : (s.setHost l).h = s.h := rfl
@[simp] theorem State.setHost_v (s : State) (l : List HostEvent) : (s.setHost l).v = s.v := rfl
@[simp] theorem State.setHost_w (s : State) (l : List HostEvent) : (s.setHost l).w = s.w := rfl
@[simp] theorem State.setHost_msg (s : State) (l : List HostEvent) : (s.setHost l).msg = s.msg := rfl
@[simp] theorem State.setHost_pb (s : State) (l : List HostEvent) : (s.setHost l).pb = s.pb := rfl
@[simp] theorem State.setHost_mlen (s : State) (l : List HostEvent) : (s.setHost l).mlen = s.mlen := rfl
@[simp] theorem State.setHost_arg (s : State) (l : List HostEvent) : (s.setHost l).arg = s.arg := rfl
@[simp] theorem State.setHost_plen (s : State) (l : List HostEvent) : (s.setHost l).plen = s.plen := rfl
@[simp] theorem State.setHost_busy (s : State) (l : List HostEvent) : (s.setHost l).busy = s.busy := rfl
@[simp] theorem State.setHost_done (s : State) (l : List HostEvent) : (s.setHost l).done = s.done := rfl
@[simp] theorem State.setHost_fault (s : State) (l : List HostEvent) : (s.setHost l).fault = s.fault := rfl
@[simp] theorem State.setHost_pbv (s : State) (l : List HostEvent) : (s.setHost l).pbv = s.pbv := rfl
@[simp] theorem State.setHost_fcause (s : State) (l : List HostEvent) : (s.setHost l).fcause = s.fcause := rfl
@[simp] theorem State.setHost_cur (s : State) (l : List HostEvent) : (s.setHost l).cur = s.cur := rfl
@[simp] theorem State.setHost_phase (s : State) (l : List HostEvent) : (s.setHost l).phase = s.phase := rfl
@[simp] theorem State.setHost_blk (s : State) (l : List HostEvent) : (s.setHost l).blk = s.blk := rfl
@[simp] theorem State.setHost_t (s : State) (l : List HostEvent) : (s.setHost l).t = s.t := rfl
@[simp] theorem State.setHost_pidx (s : State) (l : List HostEvent) : (s.setHost l).pidx = s.pidx := rfl
@[simp] theorem State.setHost_host (s : State) (l : List HostEvent) : (s.setHost l).host = l := rfl
@[simp] theorem State.setHost_results (s : State) (l : List HostEvent) : (s.setHost l).results = s.results := rfl
@[simp] theorem State.setHost_fresh (s : State) (l : List HostEvent) : (s.setHost l).fresh = s.fresh := rfl
@[simp] theorem State.setHost_epoch (s : State) (l : List HostEvent) : (s.setHost l).epoch = s.epoch := rfl

end Sys2Proof.Machine
end

