-- ==== Sys2Proof/Laws/Memory.lean ====
section
/-! SUPPORT. The laws of the byte spaces: a read after a write, and that every operation keeps the canonical form. -/

namespace Sys2Proof.Machine

@[simp] theorem Memory.read_nil (i : Nat) : Memory.read [] i = none := rfl

theorem Memory.read_cons (a : Nat) (b : Byte) (m : Memory) (i : Nat) :
    Memory.read ((a, b) :: m) i = if a = i then some b else Memory.read m i := rfl

@[simp] theorem Memory.read_write_self (m : Memory) (i : Nat) (x : Byte) : (m.write i x).read i = some x := by
  induction m with
  | nil => simp [Memory.write, Memory.read]
  | cons c m ih =>
    obtain ⟨a, b⟩ := c
    simp only [Memory.write]
    split
    · simp [Memory.read]
    · split
      · simp [Memory.read]
      · simp [Memory.read, ih]; omega

theorem Memory.read_write_other (m : Memory) {i j : Nat} (x : Byte) (h : j ≠ i) : (m.write i x).read j = m.read j := by
  have hij : i ≠ j := fun e => h e.symm
  induction m with
  | nil => simp [Memory.write, Memory.read, hij]
  | cons c m ih =>
    obtain ⟨a, b⟩ := c
    simp only [Memory.write]
    split
    · simp [Memory.read, hij]
    · split
      · rename_i h2; subst h2; simp [Memory.read, hij]
      · simp [Memory.read, ih]

theorem Memory.read_write (m : Memory) (i j : Nat) (x : Byte) :
    (m.write i x).read j = if j = i then some x else m.read j := by
  split
  · rename_i h; subst h; simp
  · exact Memory.read_write_other m x ‹_›

/-- The canonical form, as a statement about the list of addresses. -/
theorem Memory.wf_iff (m : Memory) : m.wf = true ↔ m.Pairwise (fun c d => c.1 < d.1) := by
  induction m with
  | nil => simp [Memory.wf]
  | cons c m ih =>
    cases m with
    | nil => simp [Memory.wf]
    | cons d m =>
      simp only [Memory.wf, Bool.and_eq_true, decide_eq_true_eq, ih, List.pairwise_cons]
      constructor
      · rintro ⟨h, h1, h2⟩
        refine ⟨?_, h1, h2⟩
        intro e he
        rcases List.mem_cons.1 he with rfl | he
        · exact h
        · exact Nat.lt_trans h (h1 e he)
      · rintro ⟨h, h1, h2⟩
        exact ⟨h d (List.mem_cons_self ..), h1, h2⟩

theorem Memory.mem_write {m : Memory} {i : Nat} {x : Byte} {c : Host.Cell} (h : c ∈ m.write i x) :
    c = (i, x) ∨ c ∈ m := by
  induction m with
  | nil => simpa [Memory.write] using h
  | cons d m ih =>
    obtain ⟨a, b⟩ := d
    simp only [Memory.write] at h
    split at h
    · simpa using h
    · split at h
      · rcases List.mem_cons.1 h with h | h
        · exact .inl h
        · exact .inr (List.mem_cons_of_mem _ h)
      · rcases List.mem_cons.1 h with rfl | h
        · exact .inr (List.mem_cons_self ..)
        · exact (ih h).imp id (List.mem_cons_of_mem _)

/-- A write keeps the canonical form. -/
theorem Memory.wf_write {m : Memory} (i : Nat) (x : Byte) (h : m.wf = true) : (m.write i x).wf = true := by
  rw [Memory.wf_iff] at h ⊢
  induction m with
  | nil => simp [Memory.write]
  | cons d m ih =>
    obtain ⟨a, b⟩ := d
    obtain ⟨h1, h2⟩ := List.pairwise_cons.1 h
    simp only [Memory.write]
    split
    · rename_i hi
      refine List.pairwise_cons.2 ⟨?_, h⟩
      intro c hc
      rcases List.mem_cons.1 hc with rfl | hc
      · exact hi
      · exact Nat.lt_trans hi (h1 c hc)
    · split
      · rename_i hi; subst hi
        exact List.pairwise_cons.2 ⟨h1, h2⟩
      · refine List.pairwise_cons.2 ⟨?_, ih h2⟩
        intro c hc
        rcases Memory.mem_write hc with rfl | hc
        · simp only; omega
        · exact h1 c hc

/-- The memories of the reset state are in canonical form. -/
theorem reset_memory_wf : State.reset.msg.wf = true ∧ State.reset.pb.wf = true := ⟨rfl, rfl⟩

end Sys2Proof.Machine
end

