-- ==== Sys2Proof/Laws/Invariant.lean ====
section
/-! SUPPORT. How the invariant of Safety.lean is shown in each of the three engine conditions. -/

namespace Sys2Proof.Machine

/-- The invariant in an idle state: the memories, PLEN and PBV are all there is to show. -/
theorem State.inv_of_idle {s : State} (m1 : s.msg.wf = true)
    (m2 : ∀ a, (s.msg.read a).isSome = true → inSpace s.par.msgBytes a = true)
    (m3 : s.pb.wf = true) (hb : s.busy = false) (hf : s.fault = false) (hp : s.phase = 0) (hc : s.fcause = 0)
    (p1 : s.plen = 0 ∨ (s.plen.toNat % 64 = 0 ∧ 64 ≤ s.plen.toNat ∧ s.plen.toNat ≤ 2 ^ 61 + 64))
    (p2 : s.pbv = true → s.plen ≠ 0)
    (p3 : ∀ a, (s.pb.read a).isSome = (s.pbv && decide (a < s.plen.toNat))) : s.Inv := by
  constructor
  case idlePhase => simp [State.idle, hf, hb, hp]
  case faultPhase => rw [hf, hp]; decide
  case busyPhase => rw [hb, hp]; decide
  case causeRecorded => simp [hf, hc]
  case causeLegal => simp [hc]
  case pbContent => exact fun _ => p3
  all_goals
    first
    | assumption
    | (intro h; rw [hb] at h; cases h)
    | (intro h; rw [hf] at h; cases h)
    | (intro h; rw [hp] at h; exact absurd h (by decide))

/-- The invariant in a busy state whose PHASE is `p`: of the last premises only the one of `p` says anything. -/
theorem State.inv_of_busy (p : BitVec 4) {s : State} (m1 : s.msg.wf = true)
    (m2 : ∀ a, (s.msg.read a).isSome = true → inSpace s.par.msgBytes a = true)
    (m3 : s.pb.wf = true) (hb : s.busy = true) (hf : s.fault = false) (hd : s.done = false)
    (hp' : s.phase = p)
    (hp : 1 ≤ p.toNat ∧ p.toNat ≤ 8) (hc : s.fcause = 0)
    (p1 : s.plen = 0 ∨ (s.plen.toNat % 64 = 0 ∧ 64 ≤ s.plen.toNat ∧ s.plen.toNat ≤ 2 ^ 61 + 64))
    (p2 : s.pbv = true → s.plen ≠ 0)
    (p3 : p ≠ Phase.padbyte → ∀ a, (s.pb.read a).isSome = (s.pbv && decide (a < s.plen.toNat)))
    (hx : (p = Phase.init → s.cur = Op.init ∨ (s.cur = Op.hash ∧ s.pbv = false ∧ s.LengthsChecked)) ∧
   (p = Phase.padbyte →
    s.LengthsChecked ∧ s.pidx.toNat < s.plen.toNat ∧ s.pbv = false ∧
      (∀ a, (s.pb.read a).isSome = decide (a < s.pidx.toNat)) ∧
      (s.cur = Op.pad ∨ (s.cur = Op.hash ∧ s.hv = true))) ∧
   (p = Phase.loadw →
    s.BlockInBuffer ∧ s.t.toNat ≤ 15 ∧ definedBelow s.w s.t.toNat ∧
      (s.cur = Op.schedule ∨ (s.cur = Op.hash ∧ s.hv = true))) ∧
   (p = Phase.expand →
    s.BlockInBuffer ∧ 16 ≤ s.t.toNat ∧ definedBelow s.w s.t.toNat ∧
      (s.cur = Op.schedule ∨ (s.cur = Op.hash ∧ s.hv = true))) ∧
   (p = Phase.loadv →
    s.hv = true ∧ s.wv = true ∧ (s.cur = Op.compress ∨ (s.cur = Op.hash ∧ s.BlockInBuffer))) ∧
   (p = Phase.round ∨ p = Phase.fold →
    s.hv = true ∧ s.wv = true ∧ s.vv = true ∧ (s.cur = Op.compress ∨ (s.cur = Op.hash ∧ s.BlockInBuffer))) ∧
   (p = Phase.discard → s.hv = true ∧ s.cur = Op.hash)) : s.Inv := by
  subst hp'
  have n0 : ¬ s.phase = Phase.idle := by intro h; rw [h] at hp; exact absurd hp (by decide)
  have n15 : ¬ s.phase = Phase.faulted := by intro h; rw [h] at hp; exact absurd hp (by decide)
  obtain ⟨x1,x2,x3,x4,x5,x6,x8⟩ := hx
  constructor
  case idlePhase => simp [State.idle, hf, hb, n0]
  case faultPhase => simp [hf, n15]
  case busyPhase => simp [hb, hp]
  case causeRecorded => simp [hf, hc]
  case causeLegal => simp [hc]
  case inRound => exact fun h => x6 (.inl h)
  case inFold => exact fun h => x6 (.inr h)
  all_goals first | assumption | exact fun _ => hf | exact fun _ => hd | (intro h; rw [hf] at h; cases h)

/-- The invariant in a faulted state: it holds nothing (60_exceptions.md R250). -/
theorem State.inv_of_faulted {s : State} (m1 : s.msg.wf = true)
    (m2 : ∀ a, (s.msg.read a).isSome = true → inSpace s.par.msgBytes a = true)
    (m3 : s.pb = []) (hb : s.busy = false) (hf : s.fault = true) (hd : s.done = false) (hp : s.phase = 15)
    (hc : 1 ≤ s.fcause.toNat ∧ s.fcause.toNat ≤ 7)
    (p1 : s.plen = 0 ∨ (s.plen.toNat % 64 = 0 ∧ 64 ≤ s.plen.toNat ∧ s.plen.toNat ≤ 2 ^ 61 + 64))
    (p2 : s.pbv = false)
    (h : s.h = Vector.replicate 8 none) (hv : s.v = Vector.replicate 8 none)
    (hw : s.w = Vector.replicate 64 none) : s.Inv := by
  constructor
  case idlePhase => rw [State.idle, hf, hp, hb]; decide
  case faultPhase => simp [hf, hp]
  case busyPhase => rw [hb, hp]; decide
  case causeRecorded => simp [hf]; intro h; rw [h] at hc; exact absurd hc (by decide)
  case causeLegal => exact hc.2
  case pbContent => intro _ a; rw [m3, p2]; rfl
  case pbForm => rw [m3]; rfl
  all_goals
    first
    | assumption
    | (intro h; rw [hb] at h; cases h)
    | exact fun _ => ‹_› | (intro h; rw [p2] at h; cases h)
    | (intro h; rw [hp] at h; exact absurd h (by decide))

/-- The invariant does not look at the HOST's lists and the model's counters. -/
theorem State.Inv.outside {s : State} (h : s.Inv) (l : List HostEvent) (r : List PortValue) (f e : Nat) :
    ({ s with host := l, results := r, fresh := f, epoch := e } : State).Inv :=
  ⟨h.msgForm, h.msgInSpace, h.pbForm, h.busyFault, h.busyDone, h.faultDone, h.idlePhase, h.faultPhase, h.busyPhase,
   h.causeRecorded, h.causeLegal, h.faultUndefH, h.faultUndefV, h.faultUndefW, h.faultUndefPB, h.plenLegal, h.pbvPlen,
   h.pbContent,
   fun q => (h.inInit q).imp id (fun ⟨a,b,c⟩ => ⟨a,b,⟨c.1,c.2,c.3,c.4⟩⟩),
   fun q => let ⟨c,x⟩ := h.inPadbyte q; ⟨⟨c.1,c.2,c.3,c.4⟩,x⟩,
   fun q => let ⟨c,x⟩ := h.inLoadw q; ⟨⟨c.1,c.2⟩,x⟩,
   fun q => let ⟨c,x⟩ := h.inExpand q; ⟨⟨c.1,c.2⟩,x⟩,
   fun q => let ⟨a,b,x⟩ := h.inLoadv q; ⟨a,b,x.imp id (fun ⟨a,c⟩ => ⟨a,c.1,c.2⟩)⟩,
   fun q => let ⟨a,b,d,x⟩ := h.inRound q; ⟨a,b,d,x.imp id (fun ⟨a,c⟩ => ⟨a,c.1,c.2⟩)⟩,
   fun q => let ⟨a,b,d,x⟩ := h.inFold q; ⟨a,b,d,x.imp id (fun ⟨a,c⟩ => ⟨a,c.1,c.2⟩)⟩,
   h.inDiscard⟩

end Sys2Proof.Machine
end

