-- ==== Sys2Proof/Laws/Ops.lean ====
section
/-! SUPPORT. What the shared operations can do, each said once: engine conditions, acceptance, turns, runs, and the reads
of registers that may be undef. -/

namespace Sys2Proof.Machine

/-! Engine conditions. -/

theorem State.idle_iff (s : State) : s.idle = true ↔ s.fault = false ∧ s.busy = false := by
  cases hf : s.fault <;> cases hb : s.busy <;> simp [State.idle, hf, hb]

theorem State.whenIdle_idle {s : State} (t : State) (h : s.idle = true) : s.whenIdle t = t := by
  obtain ⟨hf, hb⟩ := s.idle_iff.1 h
  simp [State.whenIdle, hf, hb]

theorem State.whenIdle_busy {s : State} (t : State) (hf : s.fault = false) (hb : s.busy = true) :
    s.whenIdle t = s.raise .busyViolation := by simp [State.whenIdle, hf, hb]

theorem State.whenIdle_faulted {s : State} (t : State) (hf : s.fault = true) : s.whenIdle t = s := by
  simp [State.whenIdle, hf]

/-- Everything a write that needs an idle engine can do. -/
theorem State.whenIdle_cases (s t : State) :
    (s.fault = true ∧ s.whenIdle t = s) ∨
    (s.fault = false ∧ s.busy = true ∧ s.whenIdle t = s.raise .busyViolation) ∨
    (s.idle = true ∧ s.whenIdle t = t) := by
  cases hf : s.fault
  · cases hb : s.busy
    · exact .inr (.inr ⟨s.idle_iff.2 ⟨hf, hb⟩, s.whenIdle_idle t (s.idle_iff.2 ⟨hf, hb⟩)⟩)
    · exact .inr (.inl ⟨rfl, rfl, s.whenIdle_busy t hf hb⟩)
  · exact .inl ⟨rfl, s.whenIdle_faulted t hf⟩

theorem State.issue_accepted {s : State} {check : Option Cause} (t : State) (h : s.idle = true) (hc : check = none) :
    s.issue check t = t := by subst hc; exact s.whenIdle_idle t h

theorem State.issue_refused {s : State} {check : Option Cause} {c : Cause} (t : State) (h : s.idle = true)
    (hc : check = some c) : s.issue check t = s.raise c := by subst hc; exact s.whenIdle_idle _ h

/-- Everything the issue of a command can do (44_digest_engine.md R210). -/
theorem State.issue_cases (s : State) (check : Option Cause) (t : State) :
    (s.fault = true ∧ s.issue check t = s) ∨
    (s.fault = false ∧ s.busy = true ∧ s.issue check t = s.raise .busyViolation) ∨
    (s.idle = true ∧ ∃ c, check = some c ∧ s.issue check t = s.raise c) ∨
    (s.idle = true ∧ check = none ∧ s.issue check t = t) := by
  rcases s.whenIdle_cases (match check with | some c => s.raise c | none => t) with h | h | ⟨h, _⟩
  · exact .inl h
  · exact .inr (.inl h)
  · cases hc : check with
    | some c => exact .inr (.inr (.inl ⟨h, c, rfl, s.issue_refused t h rfl⟩))
    | none => exact .inr (.inr (.inr ⟨h, rfl, s.issue_accepted t h rfl⟩))

/-! Fault codes (60_exceptions.md R242). -/

theorem Cause.code_range (c : Cause) : 1 ≤ c.code.toNat ∧ c.code.toNat ≤ 7 := by cases c <;> decide

theorem Cause.code_eq_one (c : Cause) : c.code = 1 ↔ c = .busyViolation := by cases c <;> decide

/-! Acceptance checks. -/

theorem exceeds_some (c n : Nat) : exceeds (some c) n = true ↔ c < n := by simp [exceeds]

theorem State.checkLength_none (s : State) :
    s.checkLength = none ↔ s.mlen.toNat < 2 ^ 61 ∧ exceeds s.par.msgBytes s.mlen.toNat = false ∧
      exceeds s.par.pbBytes (plenOf s.mlen.toNat) = false := by
  unfold State.checkLength
  split
  · simp; omega
  · split
    · simp_all
    · split <;> simp_all

theorem State.checkBlock_none (s : State) :
    s.checkBlock = none ↔ s.pbv = true ∧ s.arg.toNat < s.plen.toNat / 64 := by
  unfold State.checkBlock
  split
  · simp_all
  · split
    · simp_all
    · simp_all

theorem State.checkOperands_none (s : State) : s.checkOperands = none ↔ s.hv = true ∧ s.wv = true := by
  unfold State.checkOperands
  cases s.hv <;> cases s.wv <;> simp

/-! Turns and runs. -/

theorem step_nil {s : State} (h : s.host = []) : step s = s.engineTurn := by
  simp [step, State.turn, h]

theorem step_cons {s : State} {e : HostEvent} {rest : List HostEvent} (h : s.host = e :: rest) :
    step s = (s.setHost rest).hostTurn e := by
  simp [step, State.turn, h]

theorem State.engineTurn_op {s : State} {i : Instr} (hb : s.busy = true) (hp : decodePhase s.phase = .ok i) :
    s.engineTurn = exec i s := by
  simp [State.engineTurn, hb, hp]

theorem State.engineTurn_idle {s : State} (hb : s.busy = false) : s.engineTurn = .next s := by
  simp [State.engineTurn, hb]

theorem run_zero (s : State) : run 0 s = .next s := rfl

/-- One step, and then the rest of the run. -/
theorem run_succ_eq (n : Nat) (s : State) :
    run (n + 1) s = match step s with
      | .next t => run n t
      | .fault r => .fault r
      | .refused r => .refused r := by
  simp only [run, Host.Core.run]
  cases h : step s <;> simp [Sys2Proof.core, h]

theorem run_succ {s t : State} (n : Nat) (h : step s = .next t) : run (n + 1) s = run n t := by
  rw [run_succ_eq, h]

theorem run_add {s t : State} (n k : Nat) (h : run n s = .next t) : run (n + k) s = run k t := by
  induction n generalizing s with
  | zero => cases h; rw [Nat.zero_add]
  | succ n ih =>
    rw [Nat.add_right_comm]
    rw [run_succ_eq] at h ⊢
    cases hs : step s with
    | next u => rw [hs] at h; exact ih h
    | fault r => exact nomatch r
    | refused r => rw [hs] at h; cases h

/-! Vectors of registers. -/

theorem defined8_get (x : Vector Word 8) (j : Fin 8) : (defined8 x)[j] = some x[j] := by
  match j with
  | 0 | 1 | 2 | 3 | 4 | 5 | 6 | 7 => rfl

theorem allDefined_iff {n : Nat} (file : Vector Reg n) :
    allDefined file = true ↔ ∀ (i : Nat) (hi : i < n), (file[i]).isSome = true := by
  simp only [allDefined, List.all_eq_true, Vector.mem_toList_iff, Vector.mem_iff_getElem]
  constructor
  · exact fun h i hi => h _ ⟨i, hi, rfl⟩
  · rintro h x ⟨i, hi, rfl⟩; exact h i hi

theorem State.readH_of_some {s : State} {j : Fin 8} {x : Word} (h : s.h[j] = some x) : s.readH j = x := by
  simp [State.readH, h]

theorem State.readV_of_some {s : State} {j : Fin 8} {x : Word} (h : s.v[j] = some x) : s.readV j = x := by
  simp [State.readV, h]

theorem State.readW_of_some {s : State} {i : BitVec 6} {x : Word} (h : s.w[i.toNat]'i.isLt = some x) :
    s.readW i = x := by
  simp [State.readW, h]

theorem vector8_ext {α : Type} {x y : Vector α 8} (h : ∀ j : Fin 8, x[j] = y[j]) : x = y := by
  apply Vector.ext
  intro i hi
  exact h ⟨i, hi⟩

theorem State.allH_of_some {s : State} {x : Vector Word 8} (h : ∀ j : Fin 8, s.h[j] = some x[j]) : s.allH = x := by
  apply vector8_ext
  intro j
  match j with
  | 0 => exact State.readH_of_some (h 0)
  | 1 => exact State.readH_of_some (h 1)
  | 2 => exact State.readH_of_some (h 2)
  | 3 => exact State.readH_of_some (h 3)
  | 4 => exact State.readH_of_some (h 4)
  | 5 => exact State.readH_of_some (h 5)
  | 6 => exact State.readH_of_some (h 6)
  | 7 => exact State.readH_of_some (h 7)

theorem State.allV_of_some {s : State} {x : Vector Word 8} (h : ∀ j : Fin 8, s.v[j] = some x[j]) : s.allV = x := by
  apply vector8_ext
  intro j
  match j with
  | 0 => exact State.readV_of_some (h 0)
  | 1 => exact State.readV_of_some (h 1)
  | 2 => exact State.readV_of_some (h 2)
  | 3 => exact State.readV_of_some (h 3)
  | 4 => exact State.readV_of_some (h 4)
  | 5 => exact State.readV_of_some (h 5)
  | 6 => exact State.readV_of_some (h 6)
  | 7 => exact State.readV_of_some (h 7)

theorem State.pbByte_of_some {s : State} {a : Nat} {b : Byte} (h : s.pb.read a = some b) : s.pbByte a = b := by
  simp [State.pbByte, h]

theorem State.pbWord_of_some {s : State} {a : Nat} {b0 b1 b2 b3 : Byte} (h0 : s.pb.read a = some b0)
    (h1 : s.pb.read (a + 1) = some b1) (h2 : s.pb.read (a + 2) = some b2) (h3 : s.pb.read (a + 3) = some b3) :
    s.pbWord a = be32 b0 b1 b2 b3 := by
  unfold State.pbWord
  rw [State.pbByte_of_some h0, State.pbByte_of_some h1, State.pbByte_of_some h2, State.pbByte_of_some h3]

/-- Eight words written at once leave the file defined. -/
theorem allDefined_defined8 (x : Vector Word 8) : allDefined (defined8 x) = true := by
  rw [allDefined_iff]
  intro i hi
  have := defined8_get x ⟨i, hi⟩
  simp only [Fin.getElem_fin] at this
  rw [this]; rfl

/-- A discarded file is not defined. -/
theorem allDefined_undefined {n : Nat} (h : 0 < n) : allDefined (Vector.replicate n (none : Reg)) = false := by
  rw [Bool.eq_false_iff, Ne, allDefined_iff]
  intro h'
  have := h' 0 h
  simp at this

/-- A write of one register of a file, read back. -/
theorem reg_set_get {n : Nat} (file : Vector Reg n) {k : Nat} (hk : k < n) (x : Word) (i : Fin n) :
    (file.set k (some x) hk)[i] = if i.val = k then some x else file[i] := by
  simp only [Fin.getElem_fin, Vector.getElem_set]
  by_cases h : k = i.val
  · rw [if_pos h, if_pos h.symm]
  · rw [if_neg h, if_neg (fun h' => h h'.symm)]

/-- The length a Padded Buffer can have (41_padding.md R141), and that it fits PLEN. -/
theorem plenOf_fits {L : Nat} (h : L < 2 ^ 61) :
    plenOf L ≤ 2 ^ 61 + 64 ∧ 64 ≤ plenOf L ∧ plenOf L % 64 = 0 ∧ (BitVec.ofNat 64 (plenOf L)).toNat = plenOf L := by
  unfold plenOf
  refine ⟨by omega, by omega, by omega, ?_⟩
  rw [BitVec.toNat_ofNat, Nat.mod_eq_of_lt (by omega)]

end Sys2Proof.Machine
end

