-- ==== Sys2Proof/Laws/PerInstr.lean ====
section
/-! SUPPORT. Statements made for every instruction, one lemma per constructor. -/

namespace Sys2Proof.Laws.RoundTrip

/-- The decoder reads from an instruction's encoding that instruction (30_encoding.md R91, R95). -/
def Statement (i : Instr) : Prop := i.wf = true ∧ decode (encode i) = .ok i

theorem init : Statement .init := ⟨rfl, rfl⟩
theorem pad : Statement .pad := ⟨rfl, rfl⟩
theorem schedule : Statement .schedule := ⟨rfl, rfl⟩
theorem compress : Statement .compress := ⟨rfl, rfl⟩
theorem hash : Statement .hash := ⟨rfl, rfl⟩
theorem uInit : Statement .uInit := ⟨rfl, rfl⟩
theorem uPadbyte : Statement .uPadbyte := ⟨rfl, rfl⟩
theorem uLoadw : Statement .uLoadw := ⟨rfl, rfl⟩
theorem uExpand : Statement .uExpand := ⟨rfl, rfl⟩
theorem uLoadv : Statement .uLoadv := ⟨rfl, rfl⟩
theorem uRound : Statement .uRound := ⟨rfl, rfl⟩
theorem uFold : Statement .uFold := ⟨rfl, rfl⟩
theorem uDiscard : Statement .uDiscard := ⟨rfl, rfl⟩

end Sys2Proof.Laws.RoundTrip
end

