-- ==== Sys2Proof/Laws/Port.lean ====
section
/-! SUPPORT. The register map (10_state.md R30) read both ways, what a HOST write can do, and a round of WAIT
(30_encoding.md R104). -/

namespace Sys2Proof.Machine

/-- The number column of R30, read from the register's side. -/
def PortReg.HasNumber (n : Nat) : PortReg → Prop
  | .cmd => n = 0x00
  | .status => n = 0x01
  | .fcause => n = 0x02
  | .mlen => n = 0x03
  | .arg => n = 0x04
  | .plen => n = 0x05
  | .digest => n = 0x06
  | .hex => n = 0x07
  | .h j => n = 0x10 + j.val
  | .v j => n = 0x18 + j.val
  | .w t => n = 0x40 + t.toNat
  | .k i => n = 0x80 + i.toNat
  | .h0 j => n = 0xC0 + j.val
  | .unmapped => (0x08 ≤ n ∧ n < 0x10) ∨ (0x20 ≤ n ∧ n < 0x40) ∨ 0xC8 ≤ n

/-- `portReg` answers the register that has the number. -/
theorem portReg_hasNumber (n : Nat) : (portReg n).HasNumber n := by
  by_cases c0 : n = 0x00
  · rw [portReg, if_pos c0]; exact c0
  by_cases c1 : n = 0x01
  · rw [portReg, if_neg c0, if_pos c1]; exact c1
  by_cases c2 : n = 0x02
  · rw [portReg, if_neg c0, if_neg c1, if_pos c2]; exact c2
  by_cases c3 : n = 0x03
  · rw [portReg, if_neg c0, if_neg c1, if_neg c2, if_pos c3]; exact c3
  by_cases c4 : n = 0x04
  · rw [portReg, if_neg c0, if_neg c1, if_neg c2, if_neg c3, if_pos c4]; exact c4
  by_cases c5 : n = 0x05
  · rw [portReg, if_neg c0, if_neg c1, if_neg c2, if_neg c3, if_neg c4, if_pos c5]; exact c5
  by_cases c6 : n = 0x06
  · rw [portReg, if_neg c0, if_neg c1, if_neg c2, if_neg c3, if_neg c4, if_neg c5, if_pos c6]; exact c6
  by_cases c7 : n = 0x07
  · rw [portReg, if_neg c0, if_neg c1, if_neg c2, if_neg c3, if_neg c4, if_neg c5, if_neg c6, if_pos c7]; exact c7
  by_cases c8 : 0x10 ≤ n ∧ n < 0x18
  · rw [portReg, if_neg c0, if_neg c1, if_neg c2, if_neg c3, if_neg c4, if_neg c5, if_neg c6, if_neg c7, dif_pos c8]; simp only [PortReg.HasNumber]; omega
  by_cases c9 : 0x18 ≤ n ∧ n < 0x20
  · rw [portReg, if_neg c0, if_neg c1, if_neg c2, if_neg c3, if_neg c4, if_neg c5, if_neg c6, if_neg c7, dif_neg c8, dif_pos c9]; simp only [PortReg.HasNumber]; omega
  by_cases c10 : 0x40 ≤ n ∧ n < 0x80
  · rw [portReg, if_neg c0, if_neg c1, if_neg c2, if_neg c3, if_neg c4, if_neg c5, if_neg c6, if_neg c7, dif_neg c8, dif_neg c9, if_pos c10]; simp only [PortReg.HasNumber, BitVec.toNat_ofNat]; omega
  by_cases c11 : 0x80 ≤ n ∧ n < 0xC0
  · rw [portReg, if_neg c0, if_neg c1, if_neg c2, if_neg c3, if_neg c4, if_neg c5, if_neg c6, if_neg c7, dif_neg c8, dif_neg c9, if_neg c10, if_pos c11]; simp only [PortReg.HasNumber, BitVec.toNat_ofNat]; omega
  by_cases c12 : 0xC0 ≤ n ∧ n < 0xC8
  · rw [portReg, if_neg c0, if_neg c1, if_neg c2, if_neg c3, if_neg c4, if_neg c5, if_neg c6, if_neg c7, dif_neg c8, dif_neg c9, if_neg c10, if_neg c11, dif_pos c12]; simp only [PortReg.HasNumber]; omega
  rw [portReg, if_neg c0, if_neg c1, if_neg c2, if_neg c3, if_neg c4, if_neg c5, if_neg c6, if_neg c7, dif_neg c8, dif_neg c9, if_neg c10, if_neg c11, dif_neg c12]; simp only [PortReg.HasNumber]; omega

theorem portReg_h (j : Fin 8) : portReg (0x10 + j.val) = .h j := by revert j; decide
theorem portReg_v (j : Fin 8) : portReg (0x18 + j.val) = .v j := by revert j; decide
theorem portReg_w (t : BitVec 6) : portReg (0x40 + t.toNat) = .w t := by revert t; decide
theorem portReg_k (i : BitVec 6) : portReg (0x80 + i.toNat) = .k i := by revert i; decide
theorem portReg_h0 (j : Fin 8) : portReg (0xC0 + j.val) = .h0 j := by revert j; decide

/-- The issue of any word (44_digest_engine.md R210): some check, which never is BusyViolation, and some accepted state,
which records no fault. -/
theorem State.writeCmd_cases (s : State) (c : BitVec 32) :
    ∃ k t, s.writeCmd c = .next (s.issue k t) ∧ k ≠ some .busyViolation ∧ t.fault = s.fault ∧ t.fcause = s.fcause := by
  have hL : s.checkLength ≠ some .busyViolation := by
    unfold State.checkLength
    repeat' split
    all_goals simp
  have hB : s.checkBlock ≠ some .busyViolation := by
    unfold State.checkBlock
    repeat' split
    all_goals simp
  have hO : s.checkOperands ≠ some .busyViolation := by
    unfold State.checkOperands
    repeat' split
    all_goals simp
  unfold State.writeCmd
  cases h : decodeCommand c with
  | error e => exact ⟨some .illegalCommand, s, rfl, by simp, rfl, rfl⟩
  | ok i =>
    cases i with
    | init => exact ⟨none, _, rfl, by simp, rfl, rfl⟩
    | pad => exact ⟨_, _, rfl, hL, rfl, rfl⟩
    | schedule => exact ⟨_, _, rfl, hB, rfl, rfl⟩
    | compress => exact ⟨_, _, rfl, hO, rfl, rfl⟩
    | hash => exact ⟨_, _, rfl, hL, rfl, rfl⟩
    | _ =>
      exfalso
      simp only [decodeCommand] at h
      repeat' (split at h)
      all_goals cases h

/-- What a HOST write of register number `n` does (10_state.md R43): the issue of a command, a write that needs an idle
engine and touches neither V, PB nor PLEN, or nothing. -/
theorem State.writeReg_cases (s : State) (n : Nat) (x : BitVec 64) :
    (n = 0x00 ∧ s.writeReg n x = s.writeCmd (x.setWidth 32)) ∨
    ((n = 0x03 ∨ n = 0x04 ∨ (0x10 ≤ n ∧ n < 0x18) ∨ (0x40 ≤ n ∧ n < 0x80)) ∧
      ∃ t, s.writeReg n x = .next (s.whenIdle t) ∧
        t = { s with mlen := t.mlen, arg := t.arg, h := t.h, w := t.w }) ∨
    ((n = 0x01 ∨ n = 0x02 ∨ (0x05 ≤ n ∧ n < 0x10) ∨ (0x18 ≤ n ∧ n < 0x40) ∨ 0x80 ≤ n) ∧
      s.writeReg n x = .next s) := by
  have hn := portReg_hasNumber n
  unfold State.writeReg
  cases hp : portReg n <;> simp only [hp, PortReg.HasNumber] at hn
  case cmd => exact .inl ⟨hn, rfl⟩
  case mlen => exact .inr (.inl ⟨by omega, _, rfl, rfl⟩)
  case arg => exact .inr (.inl ⟨by omega, _, rfl, rfl⟩)
  case h j => exact .inr (.inl ⟨by omega, _, rfl, rfl⟩)
  case w t => exact .inr (.inl ⟨by have := t.isLt; omega, _, rfl, rfl⟩)
  all_goals exact .inr (.inr ⟨by omega, rfl⟩)

/-! WAIT (30_encoding.md R104). -/

/-- A HOST read of STATUS, field by field (10_state.md R32, R43). -/
theorem State.rd_status (s : State) :
    s.rd 0x01 = { s with results := s.results ++ [⟨32, s.status⟩], fresh := s.fresh + 1 } := rfl

/-- The last round of WAIT. -/
theorem step_wait_done {s : State} {rest : List HostEvent} (h : s.host = .wait :: rest) (hb : s.busy = false) :
    step s = .next { s with host := rest, results := s.results ++ [⟨32, s.status⟩], fresh := s.fresh + 1 } := by
  rw [step_cons h, State.hostTurn, State.poll, if_neg (by simp [hb]), State.rd_status]; rfl

/-- A round of WAIT that shows BUSY = 1. -/
theorem step_wait_busy {s : State} {rest : List HostEvent} (h : s.host = .wait :: rest) (hb : s.busy = true) :
    step s = .next { s with host := .engine :: .wait :: rest, results := s.results ++ [⟨32, s.status⟩],
                            fresh := s.fresh + 1 } := by
  rw [step_cons h, State.hostTurn, State.poll, if_pos (by exact hb), State.rd_status]; rfl

/-- A round of WAIT on a busy engine is a read of STATUS and the micro-operation of PHASE; WAIT is then next again. -/
theorem run_wait_busy {s : State} {rest : List HostEvent} {i : Instr} (h : s.host = .wait :: rest) (hb : s.busy = true)
    (hp : decodePhase s.phase = .ok i) :
    run 2 s = exec i { s with results := s.results ++ [⟨32, s.status⟩], fresh := s.fresh + 1 } := by
  have e (l : List HostEvent) :
      State.setHost { s with host := l, results := s.results ++ [⟨32, s.status⟩], fresh := s.fresh + 1 }
          (.wait :: rest) =
        { s with results := s.results ++ [⟨32, s.status⟩], fresh := s.fresh + 1 } := by rw [← h]; rfl
  rw [run_succ 1 (step_wait_busy h hb), run_succ_eq, step_cons (rest := .wait :: rest) rfl, State.hostTurn, e,
    State.engineTurn_op (i := i) (by exact hb) (by exact hp)]
  cases exec i _ <;> rfl

end Sys2Proof.Machine
end

