-- ==== Sys2Proof/Laws/Step.lean ====
section
/-! SUPPORT. Everything one step can do, said once. Claims about `step` are derived from `step_cases`,
claims about a script that waits from `run_wait`. -/

namespace Sys2Proof.Machine

/-- PHASE and the micro-operation it selects (30_encoding.md R95). -/
theorem decodePhase_cases {p : BitVec 4} {i : Instr} (h : decodePhase p = .ok i) :
    (p = Phase.init ∧ i = .uInit) ∨ (p = Phase.padbyte ∧ i = .uPadbyte) ∨ (p = Phase.loadw ∧ i = .uLoadw) ∨
    (p = Phase.expand ∧ i = .uExpand) ∨ (p = Phase.loadv ∧ i = .uLoadv) ∨ (p = Phase.round ∧ i = .uRound) ∨
    (p = Phase.fold ∧ i = .uFold) ∨ (p = Phase.discard ∧ i = .uDiscard) := by
  unfold decodePhase at h
  repeat' (split at h)
  all_goals first | (cases h; simp_all) | cases h

/-- What no micro-operation touches: the parameters, MSG, MLEN, ARG, PLEN, CUR, the recorded fault, the HOST. -/
structure SameOutside (s t : State) : Prop where
  par : t.par = s.par
  msg : t.msg = s.msg
  epoch : t.epoch = s.epoch
  mlen : t.mlen = s.mlen
  arg : t.arg = s.arg
  plen : t.plen = s.plen
  cur : t.cur = s.cur
  fault : t.fault = s.fault
  fcause : t.fcause = s.fcause
  host : t.host = s.host
  results : t.results = s.results

theorem SameOutside.refl (s : State) : SameOutside s s := ⟨rfl, rfl, rfl, rfl, rfl, rfl, rfl, rfl, rfl, rfl, rfl⟩

/-- Every micro-operation answers a next state and leaves these alone (60_exceptions.md R241, 20_memory.md R71). -/
theorem microOp_outside {p : BitVec 4} {i : Instr} (h : decodePhase p = .ok i) (s : State) :
    ∃ t, exec i s = .next t ∧ SameOutside s t := by
  rcases decodePhase_cases h with
    ⟨_, rfl⟩ | ⟨_, rfl⟩ | ⟨_, rfl⟩ | ⟨_, rfl⟩ | ⟨_, rfl⟩ | ⟨_, rfl⟩ | ⟨_, rfl⟩ | ⟨_, rfl⟩
  · refine ⟨_, rfl, ?_⟩
    split <;> constructor <;> simp
  · refine ⟨_, rfl, ?_⟩
    split
    · constructor <;> simp
    · simp only []
      split <;> constructor <;> simp
  · refine ⟨_, rfl, ?_⟩
    split <;> constructor <;> simp
  · refine ⟨_, rfl, ?_⟩
    split
    · constructor <;> simp
    · split <;> constructor <;> simp
  · exact ⟨_, rfl, by constructor <;> simp⟩
  · refine ⟨_, rfl, ?_⟩
    split <;> constructor <;> simp
  · refine ⟨_, rfl, ?_⟩
    split
    · split <;> constructor <;> simp
    · constructor <;> simp
  · exact ⟨_, rfl, by constructor <;> simp⟩

/-- An ENGINE turn answers a next state and leaves these alone. -/
theorem engineTurn_outside (s : State) : ∃ t, s.engineTurn = .next t ∧ SameOutside s t := by
  unfold State.engineTurn
  split
  · split
    · exact microOp_outside ‹_› s
    · exact ⟨s, rfl, .refl s⟩
  · exact ⟨s, rfl, .refl s⟩

/-- The ways from one state to the next: the ENGINE's turn; a word written to CMD; a write that needs an idle engine; a
statement without effect; a read, or a round of WAIT; RESET. -/
inductive StepShape (s : State) : State → Prop
  | engine {l : List HostEvent} {t : State} (hl : (s.host = [] ∧ l = []) ∨ s.host = .engine :: l)
      (h : (s.setHost l).engineTurn = .next t) : StepShape s t
  | command {rest : List HostEvent} {x : BitVec 64} {t : State} (hh : s.host = .wr 0x00 x :: rest)
      (h : (s.setHost rest).writeCmd (x.setWidth 32) = .next t) : StepShape s t
  | write {rest : List HostEvent} {e : HostEvent} {a : State} (hh : s.host = e :: rest)
      (he : (∃ n x, n ≠ 0x00 ∧ e = .wr n x) ∨ (∃ k b, e = .msgw k b))
      (ha : a = { s.setHost rest with mlen := a.mlen, arg := a.arg, h := a.h, w := a.w, msg := a.msg })
      (hm : a.msg = s.msg ∨ ∃ k b, inSpace s.par.msgBytes k = true ∧ a.msg = s.msg.write k b) :
      StepShape s ((s.setHost rest).whenIdle a)
  | nothing {rest : List HostEvent} {e : HostEvent} (hh : s.host = e :: rest) (notReset : e ≠ .reset) :
      StepShape s (s.setHost rest)
  | read {rest l : List HostEvent} {e : HostEvent} {x : PortValue} (hh : s.host = e :: rest)
      (he : (∃ n, e = .rd n ∨ e = .msgr n ∨ e = .pbr n) ∨ e = .wait)
      (hl : l = rest ∨ (e = .wait ∧ s.busy = true ∧ l = .engine :: .wait :: rest)) :
      StepShape s ((s.setHost l).record x)
  | reset {rest : List HostEvent} (hh : s.host = .reset :: rest) : StepShape s (s.setHost rest).applyReset

/-- Every step answers a next state, in one of these ways. -/
theorem step_total (s : State) : ∃ t, step s = .next t ∧ StepShape s t := by
  cases hh : s.host with
  | nil =>
    rw [step_nil hh]
    obtain ⟨t, ht, _⟩ := engineTurn_outside s
    exact ⟨t, ht, .engine (l := []) (.inl ⟨hh, rfl⟩) (by rw [← hh]; exact ht)⟩
  | cons e rest =>
    rw [step_cons hh]
    cases e with
    | wr n x =>
      show ∃ t, (s.setHost rest).writeReg n x = _ ∧ _
      rcases (s.setHost rest).writeReg_cases n x with ⟨rfl, e⟩ | ⟨hn, a, e, ha⟩ | ⟨_, e⟩
      · obtain ⟨k, a, e', _⟩ := (s.setHost rest).writeCmd_cases (x.setWidth 32)
        exact ⟨_, e.trans e', .command hh e'⟩
      · refine ⟨_, e, .write hh (.inl ⟨n, x, by omega, rfl⟩) ?_ (.inl ?_)⟩
        · rw [ha]
        · rw [ha]; rfl
      · exact ⟨_, e, .nothing hh (by simp)⟩
    | rd n => exact ⟨_, rfl, .read hh (.inl ⟨n, .inl rfl⟩) (.inl rfl)⟩
    | msgw k b =>
      refine ⟨(s.setHost rest).writeMsg k b, rfl, ?_⟩
      unfold State.writeMsg
      split
      · exact .write hh (.inr ⟨k, b, rfl⟩) rfl (.inr ⟨k, b, ‹_›, rfl⟩)
      · exact .nothing hh (by simp)
    | msgr n => exact ⟨_, rfl, .read hh (.inl ⟨n, .inr (.inl rfl)⟩) (.inl rfl)⟩
    | pbr n => exact ⟨_, rfl, .read hh (.inl ⟨n, .inr (.inr rfl)⟩) (.inl rfl)⟩
    | wait =>
      refine ⟨(s.setHost rest).poll, rfl, ?_⟩
      unfold State.poll
      split
      · exact .read hh (.inr rfl) (.inr ⟨rfl, ‹_›, rfl⟩)
      · exact .read hh (.inr rfl) (.inl rfl)
    | engine =>
      obtain ⟨t, ht, _⟩ := engineTurn_outside (s.setHost rest)
      exact ⟨t, ht, .engine (.inr hh) ht⟩
    | reset => exact ⟨_, rfl, .reset hh⟩

/-- The inversion of `step`. -/
theorem step_cases {s t : State} (h : step s = .next t) : StepShape s t := by
  obtain ⟨t', h', hs⟩ := step_total s
  rw [h] at h'
  cases h'
  exact hs

/-- The whole of WAIT (30_encoding.md R104), from a condition `P k` that holds with `k` micro-operations still to come, is
kept whatever the HOST has read meanwhile, and ends with BUSY = 0: the reads with BUSY = 1, then the last one. -/
theorem run_wait {P : Nat → State → Prop} {rest : List HostEvent} (hd : ∀ u, P 0 u → u.busy = false)
    (hs : ∀ k u, P (k + 1) u → u.busy = true ∧ ∃ i, decodePhase u.phase = .ok i ∧
      ∀ x f, Answers (exec i { u with results := x, fresh := f }) (P k)) :
    ∀ k s, P k s → s.host = .wait :: rest → ∃ n t polls, P 0 t ∧ (∀ p ∈ polls, ∃ u : State, u.busy = true ∧
      p = ⟨32, u.status⟩) ∧
      run n s = .next { t with host := rest, results := s.results ++ polls ++ [⟨32, t.status⟩], fresh := t.fresh + 1 }
  | 0, s, h, hh => ⟨1, s, [], h, nofun, by rw [run_succ 0 (step_wait_done hh (hd s h)), List.append_nil]; rfl⟩
  | k + 1, s, h, hh => by
    obtain ⟨hb, i, hp, hx⟩ := hs k s h
    obtain ⟨u, hu, hP⟩ := hx (s.results ++ [⟨32, s.status⟩]) (s.fresh + 1)
    obtain ⟨u', hu', ho⟩ :=
      microOp_outside hp { s with results := s.results ++ [⟨32, s.status⟩], fresh := s.fresh + 1 }
    obtain rfl : u = u' := by rw [hu] at hu'; cases hu'; rfl
    obtain ⟨n, t, polls, h0, hpolls, hr⟩ := run_wait hd hs k u hP (ho.host.trans hh)
    refine ⟨2 + n, t, ⟨32, s.status⟩ :: polls, h0, ?_, ?_⟩
    · rintro p (_ | ⟨_, hp⟩)
      · exact ⟨s, hb, rfl⟩
      · exact hpolls p hp
    · rw [run_add 2 n ((run_wait_busy hh hb hp).trans hu), hr, ho.results, List.append_assoc s.results]; rfl

end Sys2Proof.Machine
end

