-- ==== Sys2Proof/Laws/Words.lean ====
section
/-! SUPPORT. The laws of byte order (20_memory.md R61, R62; 40_primitives.md R131 to R133): what be32, wordBytes and
be64bytes are as numbers, and that the first two are inverse. -/

namespace Sys2Proof.Machine

theorem be32_append (b0 b1 b2 b3 : Byte) : be32 b0 b1 b2 b3 = b0 ++ b1 ++ b2 ++ b3 := by
  unfold be32
  apply BitVec.eq_of_getLsbD_eq
  intro i hi
  have hb (b : Byte) (k : Nat) (hk : 8 ≤ k) : b.getLsbD k = false := BitVec.getLsbD_of_ge b k hk
  simp only [BitVec.getLsbD_or, BitVec.getLsbD_shiftLeft, BitVec.getLsbD_setWidth, BitVec.getLsbD_append]
  by_cases h1 : i < 8
  · have a1 : i < 24 := by omega
    have a2 : i < 16 := by omega
    simp [h1, hi, a1, a2]
  by_cases h2 : i < 16
  · have a1 : i < 24 := by omega
    have a3 : i - 8 < 8 := by omega
    have := hb b3 i (by omega)
    simp [h1, h2, hi, a1, a3, this]; omega
  by_cases h3 : i < 24
  · have a1 : i - 16 < 8 := by omega
    have a2 : i - 16 < 32 := by omega
    have := hb b3 i (by omega)
    have e1 := hb b2 (i - 8) (by omega)
    have e : i - 8 - 8 = i - 16 := by omega
    have a4 : ¬ i - 8 < 8 := by omega
    simp [h1, h2, hi, h3, a4, this, e1, e, a1, a2]
  · have := hb b3 i (by omega)
    have e1 := hb b2 (i - 8) (by omega)
    have e2 := hb b1 (i - 16) (by omega)
    have e : i - 8 - 8 - 8 = i - 24 := by omega
    have a4 : ¬ i - 8 < 8 := by omega
    have a5 : ¬ i - 8 - 8 < 8 := by omega
    simp [h1, h2, hi, h3, a4, a5, this, e1, e2, e]; omega

/-- Bytes put together, most significant first, as one number (20_memory.md R61). -/
theorem be32_toNat (b0 b1 b2 b3 : Byte) :
    (be32 b0 b1 b2 b3).toNat = b0.toNat * 2 ^ 24 + b1.toNat * 2 ^ 16 + b2.toNat * 2 ^ 8 + b3.toNat := by
  have app {n : Nat} (x : BitVec n) (b : Byte) : (x ++ b).toNat = x.toNat * 2 ^ 8 + b.toNat := by
    rw [BitVec.toNat_append, ← Nat.shiftLeft_add_eq_or_of_lt b.isLt, Nat.shiftLeft_eq]
  rw [be32_append, app, app, app]
  omega

theorem extract8_toNat {n : Nat} (x : BitVec n) (k : Nat) : (x.extractLsb' k 8).toNat = x.toNat / 2 ^ k % 256 := by
  simp [BitVec.extractLsb'_toNat, Nat.shiftRight_eq_div_pow]

theorem wordBytes_be32 (b0 b1 b2 b3 : Byte) : wordBytes (be32 b0 b1 b2 b3) = [b0, b1, b2, b3] := by
  have e := be32_toNat b0 b1 b2 b3
  have h0 := b0.isLt; have h1 := b1.isLt; have h2 := b2.isLt; have h3 := b3.isLt
  unfold wordBytes
  have t (k : Nat) (b : Byte) (h : (be32 b0 b1 b2 b3).toNat / 2 ^ k % 256 = b.toNat) :
      (be32 b0 b1 b2 b3).extractLsb' k 8 = b := by
    apply BitVec.eq_of_toNat_eq; rw [extract8_toNat, h]
  rw [t 24 b0 (by omega), t 16 b1 (by omega), t 8 b2 (by omega), t 0 b3 (by omega)]

theorem be32_wordBytes (x : Word) :
    be32 (x.extractLsb' 24 8) (x.extractLsb' 16 8) (x.extractLsb' 8 8) (x.extractLsb' 0 8) = x := by
  apply BitVec.eq_of_toNat_eq
  rw [be32_toNat]
  simp only [extract8_toNat]
  have := x.isLt
  omega

/-- Byte `k` of the eight, most significant first (40_primitives.md R132). -/
theorem be64bytes_get {k : Nat} (x : BitVec 64) (h : k < 8) :
    (be64bytes x)[k]? = some (x.extractLsb' (56 - 8 * k) 8) := by
  match k, h with
  | 0, _ | 1, _ | 2, _ | 3, _ | 4, _ | 5, _ | 6, _ | 7, _ => rfl

/-- A byte of the padded message, below the padded length `P` (41_padding.md R142). -/
theorem padByteOf_some {m : Nat → Byte} {L P i : Nat} (h : i < P) :
    padByteOf m L P i = some (if i < L then m i else if i = L then 0x80 else if i < P - 8 then 0x00
      else (BitVec.ofNat 64 (8 * L)).extractLsb' (56 - 8 * (i - (P - 8))) 8) := by
  unfold padByteOf
  by_cases h1 : i < L
  · rw [if_pos h1, if_pos h1]
  by_cases h2 : i = L
  · rw [if_neg h1, if_pos h2, if_neg h1, if_pos h2]
  by_cases h3 : i < P - 8
  · rw [if_neg h1, if_neg h2, if_pos h3, if_neg h1, if_neg h2, if_pos h3]
  · rw [if_neg h1, if_neg h2, if_neg h3, if_neg h1, if_neg h2, if_neg h3, be64bytes_get _ (by omega)]

end Sys2Proof.Machine
end

