-- ==== Sys2Proof/Tests/Slice0.lean ====
section
/-! SUPPORT. Tests of single steps and single functions against the values of 95_test_vectors.md (none comes from this
model), the smoke tests of the well-formedness checks, the decoding of words written out from 30_encoding.md R91 and
R95, and for every obligation with hypotheses a witness that meets them. -/

namespace Sys2Proof.Tests

open Sys2Proof.Machine

/-! ### Helpers -/

/-- The outcome is a next state that passes a check. -/
def answers (o : Host.Outcome State Fault Refusal) (p : State → Bool) : Bool :=
  match o with
  | .next t => p t
  | _ => false

/-- STATUS and FCAUSE of the state that follows. -/
def statusIs (o : Host.Outcome State Fault Refusal) (status : BitVec 32) (cause : BitVec 4) : Bool :=
  answers o fun t => t.status == status && t.fcause == cause

/-- A space with `n` bytes 0. -/
def zeros (n : Nat) : Memory := (List.range n).map fun i => (i, 0)

/-- The reset state with the message "abc" in MSG and MLEN. -/
def abc : State := { State.reset with msg := [(0, 0x61), (1, 0x62), (2, 0x63)], mlen := 3 }

/-- Idle, everything defined: H = H0, V = H0, W = 0, a Padded Buffer of `n` blocks of zeros. -/
def filled (n : Nat) : State :=
  { State.reset with
    h := defined8 Rom.h0
    v := defined8 Rom.h0
    w := Vector.replicate 64 (some 0)
    pb := zeros (64 * n)
    pbv := true
    plen := BitVec.ofNat 64 (64 * n) }

/-- The same, in the middle of a command. -/
def busyAt (n : Nat) (p cur : BitVec 4) (t : BitVec 6) : State :=
  { filled n with busy := true, phase := p, cur := cur, t := t }

/-- PAD or HASH of the empty message, after `n` of its 64 bytes. -/
def paddingAt (cur : BitVec 4) (n : Nat) : State :=
  { State.reset with
    h := defined8 Rom.h0
    plen := 64
    pb := zeros n
    pidx := BitVec.ofNat 64 n
    busy := true
    phase := Phase.padbyte
    cur := cur }

/-- A faulted engine. -/
def faulted : State := State.reset.raise .undefinedOperand

/-- With HOST statements to come. -/
def withHost (s : State) (l : List HostEvent) : State := { s with host := l }

/-! ### Well-formedness -/

/-- R6: PB_BYTES must be a multiple of 64 and at least 64. -/
theorem test_params_wf :
    Params.wf ⟨none, some 100⟩ = false ∧ Params.wf ⟨none, some 0⟩ = false ∧ Params.wf ⟨some 7, some 64⟩ = true ∧
      Params.wf ⟨some 0, none⟩ = true := by decide

/-- R30: a value too wide for the register is no HOST statement. -/
theorem test_host_event_wf :
    HostEvent.wf (.wr 0x10 0x100000000#64) = false ∧ HostEvent.wf (.wr 0x10 0xffffffff#64) = true ∧
      HostEvent.wf (.wr 0x03 0xffffffffffffffff#64) = true := by decide

theorem test_instr_wf : Instr.wf .hash = true ∧ Instr.wf .uDiscard = true := by decide

/-- Memories out of order, or with an address twice, are not in canonical form. -/
theorem test_memory_wf :
    Memory.wf [(1, 0), (0, 0)] = false ∧ Memory.wf [(1, 0), (1, 2)] = false ∧ Memory.wf [(0, 9), (7, 9)] = true := by
  decide

theorem test_memory_write :
    Memory.write [(1, 5), (3, 6)] 2 7 = [(1, 5), (2, 7), (3, 6)] ∧ Memory.write [(1, 5)] 1 7 = [(1, 7)] := by decide

/-! ### Decoding: words written out bit by bit from R91 and R95 -/

theorem test_decode_init : decodeCommand 0b00000000000000000000000000000001#32 = .ok .init := by decide
theorem test_decode_pad : decodeCommand 0b00000000000000000000000000000010#32 = .ok .pad := by decide
theorem test_decode_schedule : decodeCommand 0b00000000000000000000000000000011#32 = .ok .schedule := by decide
theorem test_decode_compress : decodeCommand 0b00000000000000000000000000000100#32 = .ok .compress := by decide
theorem test_decode_hash : decodeCommand 0b00000000000000000000000000000101#32 = .ok .hash := by decide
theorem test_decode_uInit : decodePhase 0b0001#4 = .ok .uInit := by decide
theorem test_decode_uPadbyte : decodePhase 0b0010#4 = .ok .uPadbyte := by decide
theorem test_decode_uLoadw : decodePhase 0b0011#4 = .ok .uLoadw := by decide
theorem test_decode_uExpand : decodePhase 0b0100#4 = .ok .uExpand := by decide
theorem test_decode_uLoadv : decodePhase 0b0101#4 = .ok .uLoadv := by decide
theorem test_decode_uRound : decodePhase 0b0110#4 = .ok .uRound := by decide
theorem test_decode_uFold : decodePhase 0b0111#4 = .ok .uFold := by decide
theorem test_decode_uDiscard : decodePhase 0b1000#4 = .ok .uDiscard := by decide

/-- R92, R106: OP outside 1 to 5, and a bit set above OP. -/
theorem test_decode_illegal :
    ∀ n ∈ [0x00000000, 0x00000006, 0x0000000f, 0x00000010, 0x00000015, 0x80000001, 0xffffffff],
      decodeCommand (BitVec.ofNat 32 n) = .error .illegalCommand := by decide

/-- R95, R96. -/
theorem test_decode_no_step :
    decodePhase 0#4 = .error .idlePhase ∧ decodePhase 15#4 = .error .faultedPhase ∧
      ∀ p ∈ [9#4, 10#4, 11#4, 12#4, 13#4, 14#4], decodePhase p = .error .reservedPhase := by decide

/-- The numbering of opcode_table.json: 32-bit command words, 8-bit rows with the 4-bit PHASE code. -/
theorem test_table_words :
    decodeTableWord 32 5 = some .hash ∧ decodeTableWord 8 5 = some .uLoadv ∧ decodeTableWord 8 8 = some .uDiscard ∧
      decodeTableWord 32 8 = none ∧ decodeTableWord 8 0x12 = none ∧ decodeTableWord 32 0x100000001 = none := by
  decide

/-- A placed instruction is the next step, from reset (R205, R206: U_INIT leaves H0, DONE and HV). -/
theorem test_placed :
    answers (step (State.reset.withFetchWord 32 1)) (fun t => t.busy && t.phase == 1) = true ∧
      statusIs (step (State.reset.withFetchWord 8 1)) 0x0a 0 = true := by decide

/-! ### Primitives: 95_test_vectors.md, section 2 -/

theorem test_add32 :
    add32 0xffffffff 0x00000001 = 0 ∧ add32 0x6a09e667 0x506e3058 = 0xba7816bf ∧
      (0xffffffff : Word) + 0xffffffff = 0xfffffffe := by decide

theorem test_rotr :
    rotr 0x12345678 1 = 0x091a2b3c ∧ rotr 0x12345678 7 = 0xf02468ac ∧ rotr 0x12345678 31 = 0x2468acf0 := by decide

theorem test_shr : shr 0x12345678 3 = 0x02468acf ∧ shr 0x12345678 10 = 0x00048d15 := by decide

theorem test_sigmas :
    ssig0 0x12345678 = 0xe7fce6ee ∧ ssig1 0x12345678 = 0xa1f78649 ∧ bsig0 0x12345678 = 0x66146474 ∧
      bsig1 0x12345678 = 0x3561abda := by decide

theorem test_sigmas_ones :
    ssig0 0xffffffff = 0x1fffffff ∧ ssig1 0xffffffff = 0x003fffff ∧ bsig0 0x6a09e667 = 0xce20b47e ∧
      bsig1 0x510e527f = 0x3587272b := by decide

theorem test_ch_maj :
    ch 0xf0f0f0f0 0xaaaaaaaa 0x55555555 = 0xa5a5a5a5 ∧ maj 0xffffffff 0x12345678 0x9abcdef0 = 0x9abcdef8 ∧
      ch 0x510e527f 0x9b05688c 0x1f83d9ab = 0x1f85c98c ∧ maj 0x6a09e667 0xbb67ae85 0x3c6ef372 = 0x3a6fe667 := by decide

theorem test_byte_order :
    be32 0x61 0x62 0x63 0x80 = 0x61626380 ∧ wordBytes 0xba7816bf = [0xba, 0x78, 0x16, 0xbf] ∧
      be64bytes 0x1c0 = [0, 0, 0, 0, 0, 0, 0x01, 0xc0] := by decide

/-- Section 2.5: byte ba renders as 'b', 'a'. -/
theorem test_hex : hexByte 0xba = [0x62, 0x61] ∧ hexByte 0x09 = [0x30, 0x39] := by decide

/-! ### Padding, schedule, compression, digests: sections 3 to 7 -/

/-- Section 3.1. -/
theorem test_lengths :
    plenOf 0 = 64 ∧ plenOf 55 = 64 ∧ plenOf 56 = 128 ∧ plenOf 119 = 128 ∧ plenOf 120 = 192 ∧
      plenOf (2 ^ 61 - 1) = 2 ^ 61 + 64 ∧ zeroFillOf 55 = 0 ∧ zeroFillOf 56 = 63 ∧ zeroFillOf 1000 = 15 ∧
      blocksOf (2 ^ 61 - 1) = 2 ^ 55 + 1 := by decide

/-- Section 3.3. -/
theorem test_padbyte :
    padbyte (bytesOf [0x61, 0x62, 0x63]) 3 2 = 0x63 ∧ padbyte (bytesOf [0x61, 0x62, 0x63]) 3 3 = 0x80 ∧
      padbyte (bytesOf [0x61, 0x62, 0x63]) 3 4 = 0x00 ∧ padbyte (bytesOf [0x61, 0x62, 0x63]) 3 63 = 0x18 ∧
      padbyte (bytesOf []) 56 126 = 0x01 ∧ padbyte (bytesOf []) 56 127 = 0xc0 := by decide

/-- Section 4.1: the block of "abc". -/
theorem test_schedule_abc :
    let x := blockOf (bytesOf [0x61, 0x62, 0x63]) 3 0
    schedule x 0 = 0x61626380 ∧ schedule x 15 = 0x18 ∧ schedule x 16 = 0x61626380 ∧ schedule x 17 = 0x000f0000 ∧
      schedule x 63 = 0x12b1edeb := by decide +kernel

/-- Section 5.1, rounds 0 and 1 of "abc". -/
theorem test_rounds_abc :
    round Rom.h0 0x428a2f98 0x61626380 = #v[0x5d6aebcd, 0x6a09e667, 0xbb67ae85, 0x3c6ef372, 0xfa2a4622, 0x510e527f,
      0x9b05688c, 0x1f83d9ab] ∧
    round #v[0x5d6aebcd, 0x6a09e667, 0xbb67ae85, 0x3c6ef372, 0xfa2a4622, 0x510e527f, 0x9b05688c, 0x1f83d9ab] 0x71374491 0
      = #v[0x5a6ad9ad, 0x5d6aebcd, 0x6a09e667, 0xbb67ae85, 0x78ce7989, 0xfa2a4622, 0x510e527f, 0x9b05688c] := by
  decide

/-- Section 5.4: eight words ffffffff folded with all words of W ffffffff. -/
theorem test_compress_ones :
    compress (Vector.replicate 8 0xffffffff) (fun _ => 0xffffffff) = #v[0xd4eafca5, 0xe14a90aa, 0x62692f4b, 0xed58d13e,
      0x860aa9a2, 0xf988b058, 0xdc1d9a7d, 0x25f02937] := by decide +kernel

/-- Section 1.1 (the source's known answers). -/
theorem test_hash_empty :
    hashWords (bytesOf []) 0 = #v[0xe3b0c442, 0x98fc1c14, 0x9afbf4c8, 0x996fb924, 0x27ae41e4, 0x649b934c, 0xa495991b,
      0x7852b855] := by decide +kernel

theorem test_hash_abc :
    hashWords (bytesOf [0x61, 0x62, 0x63]) 3 = #v[0xba7816bf, 0x8f01cfea, 0x414140de, 0x5dae2223, 0xb00361a3, 0x96177a9c,
      0xb410ff61, 0xf20015ad] := by decide +kernel

theorem test_hash_hello_world :
    hashWords (bytesOf [0x68, 0x65, 0x6c, 0x6c, 0x6f, 0x20, 0x77, 0x6f, 0x72, 0x6c, 0x64]) 11 = #v[0xb94d27b9, 0x934d3e08,
      0xa52e52d7, 0xda7dabfa, 0xc484efe3, 0x7a5380ee, 0x9088f7ac, 0xe2efcde9] := by decide +kernel

/-- Section 7: 56 bytes 61, two blocks. -/
theorem test_hash_two_blocks :
    hashWords (fun _ => 0x61) 56 = #v[0xb35439a4, 0xac6f0948, 0xb6d6f9e3, 0xc6af0f5f, 0x590ce20f, 0x1bde7090, 0xef797068,
      0x6ec6738a] := by decide +kernel

/-- Section 1.1 with R101, R102: the first and last characters of HEX for "abc". -/
theorem test_hex_codes :
    (hexCodes #v[0xba7816bf, 0x8f01cfea, 0x414140de, 0x5dae2223, 0xb00361a3, 0x96177a9c, 0xb410ff61, 0xf20015ad]).take 8
      = [0x62, 0x61, 0x37, 0x38, 0x31, 0x36, 0x62, 0x66] := by decide

/-- The ends of the first two rows and of the last row of R24's table; R25's ends. -/
theorem test_rom :
    Rom.k 0 = 0x428a2f98 ∧ Rom.k 7 = 0xab1c5ed5 ∧ Rom.k 8 = 0xd807aa98 ∧ Rom.k 56 = 0x748f82ee ∧
      Rom.k 63 = 0xc67178f2 ∧ Rom.h0[0] = 0x6a09e667 ∧ Rom.h0[7] = 0x5be0cd19 := by decide

/-! ### Commands: section 8 -/

/-- After reset: INIT is accepted, and after one step STATUS = 0x0a. -/
theorem test_init :
    answers (step (withHost State.reset [.wr 0 1])) (fun t => statusIs (step t) 0x0a 0) = true := by decide

/-- A bit set above OP. -/
theorem test_illegal_command :
    statusIs (step (withHost State.reset [.wr 0 0x15])) 4 2 = true ∧
      statusIs (step (withHost State.reset [.wr 0 6])) 4 2 = true := by decide

/-- MLEN = 2^61 - 1 with unbounded spaces: PLEN = 2^61 + 64. MLEN = 2^61: fault 3 before 4 and 5. -/
theorem test_pad_length :
    answers (exec .pad { State.reset with mlen := 0x1fffffffffffffff }) (fun t => t.plen == 0x2000000000000040 && t.busy)
      = true ∧
    statusIs (exec .pad { State.reset with mlen := 0x2000000000000000, par := ⟨some 100, some 64⟩ }) 4 3 = true := by
  decide

/-- MLEN = 101, MSG_BYTES = 100, PB_BYTES = 64: fault 4 before 5. -/
theorem test_pad_message_range :
    statusIs (exec .pad { State.reset with mlen := 101, par := ⟨some 100, some 64⟩ }) 4 4 = true := by decide

/-- MLEN = 56, PB_BYTES = 64: fault 5; MLEN = 55: accepted. -/
theorem test_hash_buffer :
    statusIs (exec .hash { State.reset with mlen := 56, par := ⟨none, some 64⟩ }) 4 5 = true ∧
    answers (exec .hash { State.reset with mlen := 55, par := ⟨none, some 64⟩ }) (fun t => t.busy && t.cur == 5) = true := by
  decide

/-- P1: at acceptance of HASH of "abc", PLEN = 64, PBV = 0, CUR = 5, PHASE = INIT. -/
theorem test_hash_acceptance :
    answers (exec .hash abc) (fun t => t.plen == 64 && !t.pbv && t.cur == 5 && t.phase == 1 && t.busy) = true := by
  decide

/-- One block: ARG = 1 is fault 7, ARG = 0 is accepted. -/
theorem test_schedule_block :
    statusIs (exec .schedule { filled 1 with arg := 1 }) 4 7 = true ∧
    answers (exec .schedule (filled 1)) (fun t => t.busy && t.blk == 0 && t.t == 0 && t.phase == 3) = true := by
  decide

theorem test_schedule_undefined : statusIs (exec .schedule State.reset) 4 6 = true := by decide

/-- H[7] not written (STATUS = 0x10): fault 6. -/
theorem test_compress_undefined :
    statusIs (.next { filled 1 with pbv := false, v := Vector.replicate 8 none, h := (filled 1).h.set 7 none }) 0x10 0 = true ∧
    statusIs (exec .compress { filled 1 with h := (filled 1).h.set 7 none }) 4 6 = true := by decide

theorem test_compress_acceptance :
    answers (exec .compress (filled 1)) (fun t => t.busy && t.cur == 4 && t.phase == 5) = true := by decide

/-- P7: WR MLEN while BUSY: fault 1, the write is dropped. FAULT = 1: no effect of WR CMD, 1. -/
theorem test_busy_and_faulted :
    answers (step (withHost { busyAt 1 Phase.init Op.hash 0 with mlen := 3 } [.wr 3 4]))
      (fun t => t.status == 4 && t.fcause == 1 && t.mlen == 3 && t.phase == 15) = true ∧
    statusIs (step (withHost faulted [.wr 0 1])) 4 6 = true := by decide

theorem test_reset_of_faulted :
    statusIs (step (withHost faulted [.reset])) 0 0 = true ∧
      statusIs (step (withHost (busyAt 1 Phase.round Op.hash 9) [.reset])) 0 0 = true := by decide

/-! ### Micro-operations -/

/-- P4: after INIT, H[0] = 6a09e667. -/
theorem test_uInit :
    answers (exec .uInit { State.reset with cur := Op.init, busy := true, phase := 1 })
      (fun t => t.readReg 0x10 == ⟨32, 0x6a09e667⟩ && t.status == 0x0a) = true := by decide

/-- Section 3.3: byte 63 of the padded "abc" is 18, and completes PAD; byte 3 is 80 and does not. -/
theorem test_uPadbyte :
    answers (exec .uPadbyte { abc with plen := 64, pidx := 63, cur := 2, busy := true, phase := 2 })
      (fun t => t.pb == [(63, 0x18)] && t.pbv && t.done && t.phase == 0) = true ∧
    answers (exec .uPadbyte { abc with plen := 64, pidx := 3, cur := 2, busy := true, phase := 2 })
      (fun t => t.pb == [(3, 0x80)] && !t.pbv && t.pidx == 4 && t.phase == 2) = true := by decide

/-- R164 on bytes 61 62 63 80; block 1 starts at PB address 64. -/
theorem test_uLoadw :
    answers (exec .uLoadw { State.reset with blk := 1, pb := [(64, 0x61), (65, 0x62), (66, 0x63), (67, 0x80)], phase := 3 })
      (fun t => t.w[0] == some 0x61626380 && t.t == 1 && t.phase == 3) = true := by decide

/-- Section 4.1: W[17] of "abc" comes from W[15] = 18 alone. -/
theorem test_uExpand :
    answers (exec .uExpand { filled 1 with w := (filled 1).w.set 15 (some 0x18), t := 17, phase := 4 })
      (fun t => t.w[17] == some 0x000f0000 && t.t == 18 && t.phase == 4) = true := by decide

/-- T = 63 ends the schedule: of SCHEDULE with completion, of HASH with LOADV. -/
theorem test_uExpand_last :
    answers (exec .uExpand (busyAt 1 Phase.expand Op.schedule 63)) (fun t => t.done && t.phase == 0 && t.t == 63) = true ∧
    answers (exec .uExpand (busyAt 1 Phase.expand Op.hash 63)) (fun t => t.busy && t.phase == 5) = true := by
  decide

theorem test_uLoadv :
    answers (exec .uLoadv { filled 1 with v := Vector.replicate 8 none, t := 63 })
      (fun t => t.v == defined8 Rom.h0 && t.t == 0 && t.phase == 6) = true := by decide

/-- Section 5.1, round 0 of "abc". -/
theorem test_uRound :
    answers (exec .uRound { busyAt 1 Phase.round Op.compress 0 with w := (filled 1).w.set 0 (some 0x61626380) })
      (fun t => t.v == #v[some 0x5d6aebcd, some 0x6a09e667, some 0xbb67ae85, some 0x3c6ef372, some 0xfa2a4622,
        some 0x510e527f, some 0x9b05688c, some 0x1f83d9ab] && t.t == 1 && t.phase == 6) = true := by decide

/-- Section 5.1, the fold of "abc". -/
theorem test_uFold :
    answers (exec .uFold { busyAt 1 Phase.fold Op.compress 63 with v := #v[some 0x506e3058, some 0xd39a2165,
        some 0x04d24d6c, some 0xb85e2ce9, some 0x5ef50f24, some 0xfb121210, some 0x948d25b6, some 0x961f4894] })
      (fun t => t.h == #v[some 0xba7816bf, some 0x8f01cfea, some 0x414140de, some 0x5dae2223, some 0xb00361a3,
        some 0x96177a9c, some 0xb410ff61, some 0xf20015ad] && t.done && t.phase == 0) = true := by decide

/-- P3: with two blocks, the first FOLD goes to LOADW with BLK = 1, the second to DISCARD. -/
theorem test_uFold_blocks :
    answers (exec .uFold (busyAt 2 Phase.fold Op.hash 63)) (fun t => t.phase == 3 && t.blk == 1 && t.t == 0 && t.busy) = true ∧
    answers (exec .uFold { busyAt 2 Phase.fold Op.hash 63 with blk := 1 }) (fun t => t.phase == 8 && t.busy) = true := by
  decide

/-- Section 6: at completion of HASH, STATUS = 0x0a. -/
theorem test_uDiscard : statusIs (exec .uDiscard (busyAt 1 Phase.discard Op.hash 63)) 0x0a 0 = true := by decide

/-! ### The HOST's ports -/

/-- P2: STATUS = 0x7a with everything defined and DONE; PB bytes and PLEN are readable. -/
theorem test_reads :
    (State.readReg { filled 1 with done := true } 1) = ⟨32, 0x7a⟩ ∧ (filled 1).readReg 5 = ⟨64, 64⟩ ∧
      (filled 1).readPB 63 = ⟨8, 0⟩ ∧ abc.readMsg 2 = ⟨8, 0x63⟩ ∧ (filled 1).readReg 0xbf = ⟨32, 0xc67178f2⟩ := by
  decide

/-- A value read is listed. WAIT reads STATUS: on an idle engine once, on a busy one with the ENGINE's turn and WAIT to
follow (R104). -/
theorem test_host_list :
    answers (step (withHost faulted [.rd 2])) (fun t => t.results == [⟨32, 6⟩] && t.host == []) = true ∧
    answers (step (withHost State.reset [.wait])) (fun t => t.results == [⟨32, 0⟩] && t.host == []) = true ∧
    answers (step (withHost (busyAt 1 Phase.round Op.hash 5) [.wait]))
      (fun t => t.results.length == 1 && t.host == [.engine, .wait] && t.t == 5 &&
        answers (step t) (fun u => u.host == [.wait] && u.t == 6)) = true := by
  decide

/-! ### Witnesses: states and operands that meet the hypotheses of each obligation, clause by clause -/

theorem zeros_read (n a : Nat) : ((zeros n).read a).isSome = decide (a < n) := by
  have h : ∀ l : List Nat, (Memory.read (l.map fun i => (i, 0)) a).isSome = decide (a ∈ l) := by
    intro l
    induction l with
    | nil => simp
    | cons b l ih =>
      rw [List.map_cons, Memory.read_cons]
      split
      · simp [‹b = a›]
      · rw [ih]; simp [show ¬ a = b from fun e => ‹¬ b = a› e.symm]
  rw [zeros, h]; simp

theorem zeros_wf (n : Nat) : (zeros n).wf = true := by
  rw [Memory.wf_iff, zeros, List.pairwise_map]
  exact List.pairwise_lt_range

theorem filled_defined : allDefined (defined8 Rom.h0) = true ∧ allDefined (Vector.replicate 64 (some (0 : Word))) = true := by
  decide

/-- The idle states of `filled` meet the invariant, from one block to the longest Padded Buffer. -/
theorem filled_inv (n : Nat) (h1 : 1 ≤ n) (h2 : n ≤ 2 ^ 55 + 1) : (filled n).Inv := by
  have hp : (filled n).plen.toNat = 64 * n := by simp [filled]; omega
  refine State.inv_of_idle rfl (by simp [filled, State.reset]) (zeros_wf _) rfl rfl rfl rfl ?_ ?_ ?_
  · exact .inr (by rw [hp]; omega)
  · intro _ h
    have := congrArg BitVec.toNat h
    rw [hp] at this
    simp at this; omega
  · intro a
    rw [hp]
    exact zeros_read (64 * n) a

/-- So do the busy states of `busyAt` in the phases after padding, for every command that has the phase. -/
theorem busyAt_inv (p cur : BitVec 4) (t : BitVec 6)
    (h : (p = Phase.init ∧ cur = Op.init) ∨
      (p = Phase.loadw ∧ t.toNat ≤ 15 ∧ (cur = Op.schedule ∨ cur = Op.hash)) ∨
      (p = Phase.expand ∧ 16 ≤ t.toNat ∧ (cur = Op.schedule ∨ cur = Op.hash)) ∨
      ((p = Phase.loadv ∨ p = Phase.round ∨ p = Phase.fold) ∧ (cur = Op.compress ∨ cur = Op.hash)) ∨
      (p = Phase.discard ∧ cur = Op.hash)) : (busyAt 2 p cur t).Inv := by
  have hb : (busyAt 2 p cur t).BlockInBuffer := ⟨rfl, by show 0 < 128 / 64; omega⟩
  have hv : (busyAt 2 p cur t).hv = true := filled_defined.1
  have vv : (busyAt 2 p cur t).vv = true := filled_defined.1
  have wv : (busyAt 2 p cur t).wv = true := filled_defined.2
  have hw : definedBelow (busyAt 2 p cur t).w (busyAt 2 p cur t).t.toNat := fun i hi _ => (allDefined_iff _).1 wv i hi
  refine State.inv_of_busy p rfl (by simp [busyAt, filled, State.reset]) (zeros_wf _) rfl rfl rfl rfl ?_ rfl ?_ ?_ ?_ ?_
  · rcases h with ⟨rfl, _⟩ | ⟨rfl, _⟩ | ⟨rfl, _⟩ | ⟨rfl | rfl | rfl, _⟩ | ⟨rfl, _⟩ <;> decide
  · exact .inr (by show (128 : Nat) % 64 = 0 ∧ 64 ≤ 128 ∧ 128 ≤ 2 ^ 61 + 64; omega)
  · exact fun _ h => absurd (congrArg BitVec.toNat h) (by show ¬ 128 = 0; omega)
  · exact fun _ a => zeros_read 128 a
  · rcases h with ⟨rfl, h⟩ | ⟨rfl, ht, h⟩ | ⟨rfl, ht, h⟩ | ⟨rfl | rfl | rfl, h⟩ | ⟨rfl, h⟩
    · exact ⟨fun _ => .inl h, nofun, nofun, nofun, nofun, nofun, nofun⟩
    · exact ⟨nofun, nofun, fun _ => ⟨hb, ht, hw, h.imp id (⟨·, hv⟩)⟩, nofun, nofun, nofun, nofun⟩
    · exact ⟨nofun, nofun, nofun, fun _ => ⟨hb, ht, hw, h.imp id (⟨·, hv⟩)⟩, nofun, nofun, nofun⟩
    · exact ⟨nofun, nofun, nofun, nofun, fun _ => ⟨hv, wv, h.imp id (⟨·, hb⟩)⟩, nofun, nofun⟩
    · exact ⟨nofun, nofun, nofun, nofun, nofun, fun _ => ⟨hv, wv, vv, h.imp id (⟨·, hb⟩)⟩, nofun⟩
    · exact ⟨nofun, nofun, nofun, nofun, nofun, fun _ => ⟨hv, wv, vv, h.imp id (⟨·, hb⟩)⟩, nofun⟩
    · exact ⟨nofun, nofun, nofun, nofun, nofun, nofun, fun _ => ⟨hv, h⟩⟩

/-- And the states in the middle of padding, the first and the last byte among them. -/
theorem paddingAt_inv (cur : BitVec 4) (n : Nat) (hn : n < 64) (hc : cur = Op.pad ∨ cur = Op.hash) :
    (paddingAt cur n).Inv := by
  have hp : (paddingAt cur n).pidx.toNat = n := by simp [paddingAt]; omega
  refine State.inv_of_busy Phase.padbyte rfl (by simp [paddingAt, State.reset]) (zeros_wf _) rfl rfl rfl rfl (by decide) rfl
    (.inr ?_) (fun h => by cases h) (fun h => absurd rfl h) ?_
  · show (64 : Nat) % 64 = 0 ∧ 64 ≤ 64 ∧ 64 ≤ 2 ^ 61 + 64; omega
  · refine ⟨nofun, fun _ => ⟨⟨by show (0 : Nat) < _; omega, rfl, rfl, by show 64 = plenOf 0; decide⟩, ?_, rfl, ?_, ?_⟩, nofun, nofun, nofun, nofun,
      nofun⟩
    · rw [hp]; exact hn
    · rw [hp]; exact zeros_read n
    · exact hc.imp id (⟨·, filled_defined.1⟩)

/-- HASH of the empty message, just accepted. -/
def hashAccepted : State :=
  { State.reset with plen := 64, busy := true, phase := Phase.init, cur := Op.hash }

theorem hashAccepted_inv : hashAccepted.Inv := by
  refine State.inv_of_busy Phase.init rfl (by simp [hashAccepted, State.reset]) rfl rfl rfl rfl rfl (by decide) rfl
    (.inr ?_) nofun (fun _ a => rfl) ?_
  · show (64 : Nat) % 64 = 0 ∧ 64 ≤ 64 ∧ 64 ≤ 2 ^ 61 + 64; omega
  · exact ⟨fun _ => .inr ⟨rfl, rfl, ⟨by show (0 : Nat) < _; omega, rfl, rfl, by show 64 = plenOf 0; decide⟩⟩, nofun, nofun, nofun, nofun, nofun,
      nofun⟩

theorem reset_inv : State.reset.Inv :=
  State.inv_of_idle rfl (by simp [State.reset]) rfl rfl rfl rfl rfl (.inl rfl) nofun (fun _ => rfl)

theorem faulted_inv : faulted.Inv :=
  State.inv_of_faulted rfl (by simp [faulted, State.reset]) rfl rfl rfl rfl rfl (by decide) (.inl rfl) rfl rfl rfl rfl

/-- Each of the four shapes of step: a command, an ENGINE turn, a written word at the CMD register in both places. -/
theorem witness_StepRunsDecodedInstruction :
    (withHost State.reset [.wr 0x00 ((0x00000005#32).setWidth 64)]).host = [.wr 0x00 ((0x00000005#32).setWidth 64)] ∧
    decodeCommand 0x00000005#32 = .ok .hash ∧ decodeCommand 0x00000001#32 = .ok .init ∧
    (busyAt 1 8 5 0).host = [] ∧ (busyAt 1 8 5 0).busy = true ∧ decodePhase (busyAt 1 8 5 0).phase = .ok .uDiscard ∧
    (withHost (busyAt 1 1 1 0) [.engine]).host = [.engine] ∧ (withHost (busyAt 1 1 1 0) [.wait]).host = [.wait] ∧
    (withHost (busyAt 1 1 1 0) [.wait]).busy = true ∧ decodePhase (busyAt 1 1 1 0).phase = .ok .uInit := by decide

theorem witness_NoEngineStepNoChange :
    State.reset.host = [] ∧ State.reset.busy = false ∧ State.reset.phase.toNat = 0 ∧
    (busyAt 1 0 1 0).host = [] ∧ (busyAt 1 0 1 0).phase.toNat = 0 ∧ 9 ≤ (busyAt 1 9 1 0).phase.toNat ∧
    9 ≤ (busyAt 1 15 1 0).phase.toNat := by decide

theorem witness_ResetLeavesTheListedValues :
    (withHost faulted [.reset]).host = [.reset] ∧ (withHost (busyAt 2 6 5 63) [.reset, .wait]).host = [.reset, .wait] := by
  decide

/-- The first and last numbers of the ranges, and the last byte of MSG. -/
theorem witness_BusyWriteFaults :
    (∀ n ∈ [0x00, 0x03, 0x04, 0x10, 0x17, 0x40, 0x7f],
      (n = 0x00 ∨ n = 0x03 ∨ n = 0x04 ∨ (0x10 ≤ n ∧ n < 0x18) ∨ (0x40 ≤ n ∧ n < 0x80)) ∧
      let s := withHost (busyAt 1 6 5 0) [.wr n 1]
      s.host = [.wr n 1] ∧ s.busy = true ∧ s.fault = false) ∧
    (let s := withHost { busyAt 1 6 5 0 with par := ⟨some 8, none⟩ } [.msgw 7 0];
      s.host = [.msgw 7 0] ∧ s.busy = true ∧ s.fault = false ∧ inSpace s.par.msgBytes 7 = true) ∧
    (∀ e ∈ [HostEvent.rd 0, .msgr 0, .pbr 0],
      (∃ n ∈ [0], e = .rd n ∨ e = .msgr n ∨ e = .pbr n) ∧
      let s := withHost (busyAt 1 6 5 0) [e]
      s.host = [e] ∧ s.busy = true ∧ s.fault = false) := by decide

theorem witness_IllegalCommandFaults :
    ∀ n ∈ [0x00000000, 0x00000006, 0x0000000f, 0x00000010, 0x00000015, 0xffffffff],
      let c := BitVec.ofNat 32 n
      (c.extractLsb' 4 28 ≠ 0 ∨ (c.extractLsb' 0 4).toNat = 0 ∨ 6 ≤ (c.extractLsb' 0 4).toNat) ∧
      let s := withHost State.reset [.wr 0x00 (c.setWidth 64)]
      s.host = [.wr 0x00 (c.setWidth 64)] ∧ s.idle = true := by decide

/-- Each check at the first length it refuses, and the last it lets pass. -/
theorem witness_LengthChecksFault :
    State.reset.idle = true ∧ 2 ^ 61 ≤ (0x2000000000000000#64).toNat ∧ (0x1fffffffffffffff#64).toNat < 2 ^ 61 ∧
    (let s := { State.reset with mlen := 101, par := ⟨some 100, none⟩ };
      s.idle = true ∧ s.par.msgBytes = some 100 ∧ s.mlen.toNat < 2 ^ 61 ∧ 100 < s.mlen.toNat ∧ s.par.pbBytes = none) ∧
    (let s := { State.reset with mlen := 56, par := ⟨some 56, some 64⟩ };
      s.idle = true ∧ s.par.pbBytes = some 64 ∧ s.mlen.toNat < 2 ^ 61 ∧ exceeds s.par.msgBytes s.mlen.toNat = false ∧
        64 < plenOf s.mlen.toNat) ∧
    (let s := { State.reset with mlen := 55, par := ⟨none, some 64⟩ };
      s.idle = true ∧ s.mlen.toNat < 2 ^ 61 ∧ s.par.msgBytes = none ∧ exceeds s.par.msgBytes s.mlen.toNat = false ∧
        s.par.pbBytes = some 64 ∧ s.mlen.toNat ≤ 55) := by decide

theorem witness_OperandChecksFault :
    State.reset.idle = true ∧ State.reset.pbv = false ∧ State.reset.h[(7 : Fin 8)] = none ∧
    (let s := { filled 1 with arg := 1 };
      s.idle = true ∧ s.pbv = true ∧ s.plen.toNat / 64 ≤ s.arg.toNat) ∧
    (let s := { filled 1 with w := (filled 1).w.set 63 none };
      s.idle = true ∧ s.w[(63 : Fin 64)] = none) := by decide

/-- A fault recorded by a data write and by a MSG write while busy, and by a command while idle. -/
theorem witness_FaultsComeFromHostWrites :
    (∀ e ∈ [HostEvent.wr 3 0, .msgw 0 0],
      answers (step (withHost (busyAt 1 6 5 0) [e])) (fun t => t.fault && t.fcause == 1) = true) ∧
    answers (step (withHost State.reset [.wr 0 6])) (fun t => t.fault && t.fcause == 2) = true ∧
    (busyAt 1 6 5 0).fault = false ∧ State.reset.fault = false := by decide

theorem witness_FaultedUntilReset :
    faulted.fault = true ∧ faulted.busy = false ∧ faulted.host = [] ∧
    (∀ e ∈ [HostEvent.engine, .wait, .wr 0 1, .msgw 0 0, .rd 1, .msgr 0, .pbr 0, .reset],
      (withHost faulted [e]).host = [e] ∧ (withHost faulted [e]).fault = true ∧ (withHost faulted [e]).busy = false) := by
  decide

theorem witness_FaultBitsNeverCleared :
    faulted.fault = true ∧ faulted.host = [] ∧
      answers (step (withHost faulted [.wr 0 1])) (fun t => t.fault) = true := by decide

/-- A fault entry and a RESET, each of which changes FCAUSE. -/
theorem witness_FaultCauseWrittenOnlyByFaultEntry :
    answers (step (withHost State.reset [.wr 0 6])) (fun t => t.fcause != State.reset.fcause) = true ∧
    answers (step (withHost faulted [.reset])) (fun t => t.fcause != faulted.fcause) = true := by decide

theorem witness_MicroOpsNeverFault : decodePhase 1#4 = .ok .uInit ∧ decodePhase 8#4 = .ok .uDiscard := by decide

theorem witness_InitRunsToCompletion : State.reset.idle = true ∧ (filled 2).idle = true := by decide

/-- The lengths 0 and 2^61 - 1, and both spaces just large enough. -/
theorem witness_PadAndHashAccepted :
    ∀ s ∈ [State.reset, { State.reset with mlen := 0x1fffffffffffffff },
        { State.reset with mlen := 55, par := ⟨some 55, some 64⟩ }],
      s.idle = true ∧ s.mlen.toNat < 2 ^ 61 ∧ exceeds s.par.msgBytes s.mlen.toNat = false ∧
        exceeds s.par.pbBytes (plenOf s.mlen.toNat) = false := by decide

/-- The only block of the shortest Padded Buffer and the last of the longest. -/
theorem witness_ScheduleAccepted :
    ∀ s ∈ [filled 1, { filled 1 with plen := 0x2000000000000040, arg := 0x80000000000000 }],
      s.idle = true ∧ s.pbv = true ∧ s.arg.toNat < s.plen.toNat / 64 ∧ s.plen.toNat ≤ 2 ^ 61 + 64 := by decide

theorem witness_CompressAccepted :
    (filled 1).idle = true ∧ (∀ j : Fin 8, (filled 1).h[j] ≠ none) ∧ (∀ i : Fin 64, (filled 1).w[i] ≠ none) := by
  decide

/-- The two completions of U_INIT, of U_EXPAND and of U_FOLD are told apart by CUR. -/
theorem witness_UInitSetsHashState : (busyAt 1 1 5 0).cur = 5 ∧ (busyAt 1 1 1 0).cur ≠ 5 := by decide

/-- The four ranges of the byte, the byte before the last and the last. -/
theorem witness_UPadbyteWritesOneByte :
    ∀ i ∈ [0, 2, 3, 4, 55, 56, 62, 63],
      let s := { abc with plen := 64, pidx := BitVec.ofNat 64 i, cur := 5, busy := true, phase := 2 }
      s.pidx.toNat < s.plen.toNat ∧ s.mlen.toNat = 3 ∧ s.plen.toNat = 64 ∧ s.cur = 5 ∧ (paddingAt 2 63).cur ≠ 5 := by
  decide

theorem witness_ULoadwLoadsBigEndianWord :
    ∀ t ∈ [0#6, 15#6],
      let s := busyAt 1 3 5 t
      s.t.toNat ≤ 15 ∧ ∀ k ∈ [0, 1, 2, 3], s.pb.read (64 * s.blk.toNat + 4 * s.t.toNat + k) = some 0 := by decide

theorem witness_UExpandDerivesWord :
    ∀ t ∈ [16#6, 62#6, 63#6],
      let s := busyAt 1 4 5 t
      16 ≤ s.t.toNat ∧ ∀ d ∈ [2, 7, 15, 16], s.w[s.t.toNat - d]? = some (some 0) := by decide

theorem witness_ULoadvCopiesHashState : ∀ j : Fin 8, (busyAt 1 5 5 63).h[j] = some Rom.h0[j] := by decide

theorem witness_URoundUpdatesWorkingVariables :
    ∀ t ∈ [0#6, 62#6, 63#6],
      let s := busyAt 1 6 5 t
      s.v = #v[some 0x6a09e667, some 0xbb67ae85, some 0x3c6ef372, some 0xa54ff53a, some 0x510e527f, some 0x9b05688c,
        some 0x1f83d9ab, some 0x5be0cd19] ∧ s.w[s.t.toNat]? = some (some 0) := by decide

/-- The last block, a block before it, and COMPRESS. -/
theorem witness_UFoldAddsWorkingVariables :
    ∀ s ∈ [busyAt 1 7 5 63, busyAt 2 7 5 63, busyAt 1 7 4 63],
      (∀ j : Fin 8, s.h[j] = some Rom.h0[j]) ∧ (∀ j : Fin 8, s.v[j] = some Rom.h0[j]) ∧ s.blk.toNat + 1 < 2 ^ 56 := by
  decide

theorem witness_frames :
    ∀ i ∈ [Instr.uInit, .uLoadv, .uRound, .uFold, .uLoadw, .uExpand, .uPadbyte],
      answers (exec i (busyAt 1 6 5 20)) (fun _ => true) = true := by decide

theorem witness_HostReadsChangeNothing :
    (withHost abc [.rd 3]).host = [.rd 3] ∧ (withHost abc [.msgr 2]).host = [.msgr 2] ∧
      (withHost (filled 1) [.pbr 63]).host = [.pbr 63] ∧
      (withHost (busyAt 1 6 5 0) [.wait]).host = [.wait] ∧ (withHost (filled 1) [.wait]).host = [.wait] := by decide

theorem witness_HostReadValues :
    faulted.fault = true ∧ (filled 1).fault = false ∧ (filled 1).busy = false ∧
    (∀ j : Fin 8, (filled 1).h[j] = some Rom.h0[j] ∧ (filled 1).v[j] = some Rom.h0[j]) ∧
    (∀ i : Fin 64, (filled 1).w[i] = some 0) := by decide

theorem witness_StatusLayout : State.reset.busy = false ∧ (filled 1).busy = false := by decide

/-- The first and last register of each file, and the ends of the ranges without effect. -/
theorem witness_HostWritesWhenIdle :
    State.reset.idle = true ∧
    (∀ n ∈ [0x03, 0x04, 0x10, 0x17, 0x40, 0x7f], (withHost State.reset [.wr n 1]).host = [.wr n 1]) ∧
    (∀ n ∈ [0x01, 0x02, 0x05, 0x0f, 0x18, 0x3f, 0x80, 0xc8],
      (n = 0x01 ∨ n = 0x02 ∨ (0x05 ≤ n ∧ n < 0x10) ∨ (0x18 ≤ n ∧ n < 0x40) ∨ 0x80 ≤ n) ∧
      (withHost (busyAt 1 6 5 0) [.wr n 1]).host = [.wr n 1]) := by decide

/-- The last byte of MSG and the first address beyond it. -/
theorem witness_MsgWriteThenRead :
    let s := { State.reset with par := ⟨some 8, none⟩ }
    (withHost s [.msgw 7 1]).host = [.msgw 7 1] ∧ inSpace s.par.msgBytes 7 = true ∧ s.idle = true ∧
    (withHost s [.msgw 8 1]).host = [.msgw 8 1] ∧ inSpace s.par.msgBytes 8 = false ∧
    (withHost faulted [.msgw 7 1]).fault = true ∧ inSpace faulted.par.msgBytes 7 = true := by decide

theorem witness_PaddedBufferReadable :
    ∀ a ∈ [0, 63],
      let s := withHost (filled 1) [.pbr a]
      s.host = [.pbr a] ∧ s.idle = true ∧ s.pbv = true ∧ a < s.plen.toNat ∧ s.pb.read a = some 0 := by decide

theorem witness_OwnershipOfSpaces :
    State.reset.idle = true ∧ (withHost State.reset [.wr 0x10 7]).host = [.wr 0x10 7] ∧
    (withHost State.reset [.msgw 0 7]).host = [.msgw 0 7] ∧
    answers (step (withHost State.reset [.wr 0x10 7])) (fun t => t.h[0] == some 7) = true ∧
    answers (step (withHost State.reset [.msgw 0 7])) (fun t => t.msg == [(0, 7)]) = true := by decide

/-- The smallest and the largest rotation, the two shifts, of the lowest and the highest bit; the first schedule words on each side of
the recurrence; the shortest and the longest message. -/
theorem witness_pure_functions :
    ((1 ≤ 1 ∧ 1 ≤ 31) ∧ (1 ≤ 31 ∧ 31 ≤ 31) ∧ (3 = 3 ∨ 3 = 10) ∧ (10 = 3 ∨ 10 = 10) ∧ 0 < 32 ∧ 31 < 32) ∧ (15 ≤ 15 ∧ 16 ≤ 16 ∧ 16 ≤ 63 ∧ 63 ≤ 63) ∧
    ((0 : Nat) < 2 ^ 61 ∧ 2 ^ 61 - 1 < 2 ^ 61) ∧
    (rotr 0x00000001 1).getLsbD 31 = true ∧ (rotr 0x00000001 31).getLsbD 1 = true ∧
    pad (bytesOf [0x61]) 1 = pad (fun _ => 0x61) 1 := by decide

theorem witness_HexStringWellFormed :
    0x62 ∈ hexCodes #v[0xba7816bf, 0, 0, 0, 0, 0, 0, 0] ∧
    (digestBytes #v[0xba7816bf, 0, 0, 0, 0, 0, 0, 0])[0]? = some 0xba ∧
    (hexCodes #v[0xba7816bf, 0, 0, 0, 0, 0, 0, 0])[63]? = some 0x30 := by decide

/-- Every kind of state the invariant speaks of, and a step from each. -/
theorem witness_InvariantKept :
    State.reset.Inv ∧ faulted.Inv ∧ hashAccepted.Inv ∧ (paddingAt Op.pad 63).Inv ∧ (busyAt 2 Phase.round Op.hash 63).Inv ∧
    ∀ s ∈ [State.reset, faulted, hashAccepted, paddingAt Op.pad 63, busyAt 2 Phase.round Op.hash 63],
      answers (step s) (fun _ => true) = true :=
  ⟨reset_inv, faulted_inv, hashAccepted_inv, paddingAt_inv _ 63 (by omega) (.inl rfl),
    busyAt_inv _ _ _ (.inr (.inr (.inr (.inl ⟨.inr (.inl rfl), .inr rfl⟩)))), by decide⟩

theorem witness_CanonicalMemoriesKept :
    let s := withHost abc [.msgw 1 0x7a]
    s.msg.wf = true ∧ s.pb.wf = true ∧ answers (step s) (fun t => t.msg == [(0, 0x61), (1, 0x7a), (2, 0x63)]) = true := by
  decide

/-- A state for each row of the table that a micro-operation takes. -/
theorem witness_SequencerFollowsTable_rows :
    (busyAt 2 Phase.init Op.init 0).Inv ∧ hashAccepted.Inv ∧ (paddingAt Op.pad 0).Inv ∧ (paddingAt Op.pad 63).Inv ∧
    (paddingAt Op.hash 63).Inv ∧ (busyAt 2 Phase.loadw Op.schedule 14).Inv ∧ (busyAt 2 Phase.loadw Op.hash 15).Inv ∧
    (busyAt 2 Phase.expand Op.hash 62).Inv ∧ (busyAt 2 Phase.expand Op.schedule 63).Inv ∧
    (busyAt 2 Phase.expand Op.hash 63).Inv ∧ (busyAt 2 Phase.loadv Op.compress 0).Inv ∧
    (busyAt 2 Phase.round Op.compress 62).Inv ∧ (busyAt 2 Phase.round Op.hash 63).Inv ∧
    (busyAt 2 Phase.fold Op.compress 63).Inv ∧ (busyAt 2 Phase.fold Op.hash 63).Inv ∧
    (busyAt 2 Phase.discard Op.hash 63).Inv ∧ (busyAt 2 Phase.discard Op.hash 63).busy = true := by
  refine ⟨busyAt_inv _ _ _ ?_, hashAccepted_inv, paddingAt_inv _ 0 ?_ ?_, paddingAt_inv _ 63 ?_ ?_, paddingAt_inv _ 63 ?_ ?_,
    busyAt_inv _ _ _ ?_, busyAt_inv _ _ _ ?_, busyAt_inv _ _ _ ?_, busyAt_inv _ _ _ ?_, busyAt_inv _ _ _ ?_,
    busyAt_inv _ _ _ ?_, busyAt_inv _ _ _ ?_, busyAt_inv _ _ _ ?_, busyAt_inv _ _ _ ?_, busyAt_inv _ _ _ ?_,
    busyAt_inv _ _ _ ?_, rfl⟩ <;> decide

/-- The second FOLD row needs the last block, BLK + 1 = PLEN / 64. -/
theorem witness_SequencerFollowsTable_last_fold :
    { busyAt 2 Phase.fold Op.hash 63 with blk := 1 }.Inv := by
  have hi := busyAt_inv Phase.fold Op.hash 63 (by decide)
  exact State.inv_of_busy Phase.fold hi.msgForm hi.msgInSpace hi.pbForm rfl rfl rfl rfl (by decide) rfl hi.plenLegal
    hi.pbvPlen hi.pbContent ⟨nofun, nofun, nofun, nofun, nofun,
      fun _ => ⟨filled_defined.1, filled_defined.2, filled_defined.1, .inr ⟨rfl, ⟨rfl, by show (1 : Nat) < _; decide⟩⟩⟩, nofun⟩

theorem witness_SequencerFollowsTable_acceptance :
    State.reset.Inv ∧ State.reset.idle = true ∧ State.reset.checkLength = none ∧
    (filled 1).Inv ∧ (filled 1).idle = true ∧ (filled 1).checkBlock = none ∧ (filled 1).checkOperands = none ∧
    faulted.Inv ∧ faulted.phase = Phase.faulted ∧ faulted.host = [] :=
  ⟨reset_inv, by decide, by decide, filled_inv 1 (by omega) (by omega), by decide,
    by decide, by decide, faulted_inv, rfl, rfl⟩

theorem witness_CommandsComplete :
    hashAccepted.Inv ∧ hashAccepted.busy = true ∧ hashAccepted.host = [] ∧ (paddingAt Op.pad 63).Inv ∧
      (paddingAt Op.pad 63).host = [] := ⟨hashAccepted_inv, rfl, rfl, paddingAt_inv _ 63 (by omega) (.inl rfl), rfl⟩

theorem witness_PadComputesPadding :
    let s := withHost abc [.wr 0x00 0x00000002#64]
    s.idle = true ∧ s.checkLength = none ∧ s.host = [.wr 0x00 0x00000002#64] := by decide

theorem witness_ScheduleComputesSchedule :
    let s := withHost { filled 2 with arg := 1 } [.wr 0x00 0x00000003#64]
    s.idle = true ∧ s.pbv = true ∧ s.plen.toNat ≤ 2 ^ 61 + 64 ∧ s.arg.toNat < s.plen.toNat / 64 ∧
    (∀ j, j < 64 → s.pb.read (64 * s.arg.toNat + j) = some 0) ∧ s.host = [.wr 0x00 0x00000003#64] := by decide

theorem witness_CompressComputesCompression :
    let s := withHost (filled 1) [.wr 0x00 0x00000004#64]
    s.idle = true ∧ (∀ j : Fin 8, s.h[j] = some Rom.h0[j]) ∧ (∀ i : Fin 64, s.w[i] = some 0) ∧
    s.host = [.wr 0x00 0x00000004#64] := by decide

theorem witness_HashComputesDigest :
    let s := withHost abc [.wr 0x00 0x00000005#64]
    s.idle = true ∧ s.checkLength = none ∧ s.host = [.wr 0x00 0x00000005#64] := by decide

/-- Two states that differ in H, V, W, PB and beyond the message. -/
theorem witness_HashDependsOnMessageOnly :
    let s1 := withHost abc (Script.command .hash)
    let s2 := withHost { filled 2 with msg := [(0, 0x61), (1, 0x62), (2, 0x63), (3, 0x64)], mlen := 3 } (Script.command .hash)
    s1.idle = true ∧ s2.idle = true ∧ s1.checkLength = none ∧ s2.checkLength = none ∧
    s1.host = Script.command .hash ∧ s2.host = Script.command .hash ∧ s1.mlen = s2.mlen ∧
    (∀ a, a < s1.mlen.toNat → s1.msgByte a = s2.msgByte a) ∧ s1.h ≠ s2.h := by decide

theorem witness_StepwiseHashEqualsHash :
    let s := withHost { abc with mlen := 56 } (Script.stepwiseHash 2)
    s.idle = true ∧ s.checkLength = none ∧ s.host = Script.stepwiseHash (blocksOf s.mlen.toNat) := by decide

theorem witness_HashScriptReadsDigest :
    let s := { State.reset with par := ⟨some 3, some 64⟩ }
    s.idle = true ∧ [0x61, 0x62, 0x63].length < 2 ^ 61 ∧ exceeds s.par.msgBytes [0x61, 0x62, 0x63].length = false ∧
    exceeds s.par.pbBytes (plenOf [0x61, 0x62, 0x63].length) = false ∧
    (withHost s (Script.hash [0x61, 0x62, 0x63])).host = Script.hash [0x61, 0x62, 0x63] ∧
    (withHost s (Script.hashHex [0x61, 0x62, 0x63])).host = Script.hashHex [0x61, 0x62, 0x63] := by
  refine ⟨rfl, by simp, rfl, ?_, rfl, rfl⟩
  simp only [List.length_cons, List.length_nil]
  decide

end Sys2Proof.Tests
end

section
/-! The invariant of Safety.lean is kept by every step: first what each shared operation keeps, then one lemma per
acceptance and per micro-operation, then the step. -/

namespace Sys2Proof.Machine

theorem Answers.of_next {o : Host.Outcome State Fault Refusal} {P : State → Prop} {t : State} (h : Answers o P)
    (ho : o = .next t) : P t := by
  obtain ⟨u, hu, hP⟩ := h
  cases hu.symm.trans ho
  exact hP

/-! What the invariant says of the STATUS bits in each engine condition. -/

theorem State.Inv.fcause_eq_zero {s : State} (h : s.Inv) (hf : s.fault = false) : s.fcause = 0 := by
  by_contra hc
  exact absurd (h.causeRecorded.2 hc) (by simp [hf])

theorem State.Inv.phase_ne_padbyte {s : State} (h : s.Inv) (hb : s.busy = false) : s.phase ≠ Phase.padbyte := by
  intro hp
  have := h.busyPhase.2 (by rw [hp]; decide)
  simp [hb] at this

/-- In a phase that has a micro-operation the engine is busy. -/
theorem State.Inv.busy_of_phase {s : State} {p : BitVec 4} (h : s.Inv) (hp : s.phase = p)
    (hr : 1 ≤ p.toNat ∧ p.toNat ≤ 8) : s.busy = true :=
  h.busyPhase.2 (by rw [hp]; exact hr)

/-! The HOST's side: its lists, RESET, fault entry, and the writes that need an idle engine. -/

theorem State.Inv.setHost {s : State} (h : s.Inv) (l : List HostEvent) : (s.setHost l).Inv :=
  h.outside l s.results s.fresh s.epoch

theorem State.Inv.record {s : State} (h : s.Inv) (x : PortValue) : (s.record x).Inv :=
  h.outside s.host (s.results ++ [x]) (s.fresh + 1) s.epoch

theorem State.applyReset_inv (s : State) : s.applyReset.Inv :=
  State.inv_of_idle rfl nofun rfl rfl rfl rfl rfl (.inl rfl) nofun (fun _ => rfl)

theorem State.Inv.raise {s : State} (h : s.Inv) (c : Cause) : (s.raise c).Inv :=
  State.inv_of_faulted h.msgForm h.msgInSpace rfl rfl rfl rfl rfl c.code_range h.plenLegal rfl rfl rfl rfl

theorem State.Inv.whenIdle {s t : State} (h : s.Inv) (ht : s.idle = true → t.Inv) : (s.whenIdle t).Inv := by
  rcases s.whenIdle_cases t with ⟨_, e⟩ | ⟨_, _, e⟩ | ⟨hi, e⟩ <;> rw [e]
  · exact h
  · exact h.raise _
  · exact ht hi

theorem State.Inv.issue {s t : State} {check : Option Cause} (h : s.Inv)
    (ht : s.idle = true → check = none → t.Inv) : (s.issue check t).Inv := by
  rcases s.issue_cases check t with ⟨_, e⟩ | ⟨_, _, e⟩ | ⟨_, c, _, e⟩ | ⟨hi, hc, e⟩ <;> rw [e]
  · exact h
  · exact h.raise _
  · exact h.raise c
  · exact ht hi hc

/-- MSG keeps its form and stays within MSG_BYTES when a byte is written within MSG_BYTES. -/
theorem State.Inv.msg_write {s : State} (h : s.Inv) {k : Nat} (b : Byte) (hk : inSpace s.par.msgBytes k = true) :
    (s.msg.write k b).wf = true ∧
      ∀ a, ((s.msg.write k b).read a).isSome = true → inSpace s.par.msgBytes a = true := by
  refine ⟨Memory.wf_write k b h.msgForm, fun a ha => ?_⟩
  rw [Memory.read_write] at ha
  split at ha
  · rename_i hak; rw [hak]; exact hk
  · exact h.msgInSpace a ha

/-- In an idle state the invariant says nothing of H, W, MLEN, ARG, and of MSG only its form and its bound. -/
theorem State.Inv.hostWrite {s a : State} (h : s.Inv) (hi : s.idle = true)
    (ha : a = { s with mlen := a.mlen, arg := a.arg, h := a.h, w := a.w, msg := a.msg })
    (hm : a.msg = s.msg ∨ ∃ k b, inSpace s.par.msgBytes k = true ∧ a.msg = s.msg.write k b) : a.Inv := by
  obtain ⟨hf, hb⟩ := s.idle_iff.1 hi
  have hmsg : a.msg.wf = true ∧ ∀ k, (a.msg.read k).isSome = true → inSpace s.par.msgBytes k = true := by
    rcases hm with e | ⟨k, b, hk, e⟩ <;> rw [e]
    · exact ⟨h.msgForm, h.msgInSpace⟩
    · exact h.msg_write b hk
  rw [ha]
  exact State.inv_of_idle hmsg.1 hmsg.2 h.pbForm hb hf (h.idlePhase.1 hi) (h.fcause_eq_zero hf) h.plenLegal h.pbvPlen
    (h.pbContent (h.phase_ne_padbyte hb))

/-! The operands of a phase. -/

/-- What the invariant says of the operands and counters in phase `p`; it is the last premise of `State.inv_of_busy`. -/
def State.ReadyAt (s : State) (p : BitVec 4) : Prop :=
  (p = Phase.init → s.cur = Op.init ∨ (s.cur = Op.hash ∧ s.pbv = false ∧ s.LengthsChecked)) ∧
  (p = Phase.padbyte →
    s.LengthsChecked ∧ s.pidx.toNat < s.plen.toNat ∧ s.pbv = false ∧
      (∀ a, (s.pb.read a).isSome = decide (a < s.pidx.toNat)) ∧
      (s.cur = Op.pad ∨ (s.cur = Op.hash ∧ s.hv = true))) ∧
  (p = Phase.loadw →
    s.BlockInBuffer ∧ s.t.toNat ≤ 15 ∧ definedBelow s.w s.t.toNat ∧
      (s.cur = Op.schedule ∨ (s.cur = Op.hash ∧ s.hv = true))) ∧
  (p = Phase.expand →
    s.BlockInBuffer ∧ 16 ≤ s.t.toNat ∧ definedBelow s.w s.t.toNat ∧
      (s.cur = Op.schedule ∨ (s.cur = Op.hash ∧ s.hv = true))) ∧
  (p = Phase.loadv →
    s.hv = true ∧ s.wv = true ∧ (s.cur = Op.compress ∨ (s.cur = Op.hash ∧ s.BlockInBuffer))) ∧
  (p = Phase.round ∨ p = Phase.fold →
    s.hv = true ∧ s.wv = true ∧ s.vv = true ∧ (s.cur = Op.compress ∨ (s.cur = Op.hash ∧ s.BlockInBuffer))) ∧
  (p = Phase.discard → s.hv = true ∧ s.cur = Op.hash)

theorem State.ReadyAt.init {s : State}
    (h : s.cur = Op.init ∨ (s.cur = Op.hash ∧ s.pbv = false ∧ s.LengthsChecked)) :
    s.ReadyAt Phase.init := ⟨fun _ => h, nofun, nofun, nofun, nofun, nofun, nofun⟩

theorem State.ReadyAt.padbyte {s : State} (hl : s.LengthsChecked) (hi : s.pidx.toNat < s.plen.toNat)
    (hv : s.pbv = false) (hpb : ∀ a, (s.pb.read a).isSome = decide (a < s.pidx.toNat))
    (hc : s.cur = Op.pad ∨ (s.cur = Op.hash ∧ s.hv = true)) : s.ReadyAt Phase.padbyte :=
  ⟨nofun, fun _ => ⟨hl, hi, hv, hpb, hc⟩, nofun, nofun, nofun, nofun, nofun⟩

theorem State.ReadyAt.loadw {s : State} (hblk : s.BlockInBuffer) (ht : s.t.toNat ≤ 15)
    (hw : definedBelow s.w s.t.toNat) (hc : s.cur = Op.schedule ∨ (s.cur = Op.hash ∧ s.hv = true)) :
    s.ReadyAt Phase.loadw :=
  ⟨nofun, nofun, fun _ => ⟨hblk, ht, hw, hc⟩, nofun, nofun, nofun, nofun⟩

theorem State.ReadyAt.expand {s : State} (hblk : s.BlockInBuffer) (ht : 16 ≤ s.t.toNat)
    (hw : definedBelow s.w s.t.toNat) (hc : s.cur = Op.schedule ∨ (s.cur = Op.hash ∧ s.hv = true)) :
    s.ReadyAt Phase.expand :=
  ⟨nofun, nofun, nofun, fun _ => ⟨hblk, ht, hw, hc⟩, nofun, nofun, nofun⟩

theorem State.ReadyAt.loadv {s : State} (hh : s.hv = true) (hw : s.wv = true)
    (hc : s.cur = Op.compress ∨ (s.cur = Op.hash ∧ s.BlockInBuffer)) : s.ReadyAt Phase.loadv :=
  ⟨nofun, nofun, nofun, nofun, fun _ => ⟨hh, hw, hc⟩, nofun, nofun⟩

theorem State.ReadyAt.round {s : State} (hh : s.hv = true) (hw : s.wv = true) (hv : s.vv = true)
    (hc : s.cur = Op.compress ∨ (s.cur = Op.hash ∧ s.BlockInBuffer)) : s.ReadyAt Phase.round :=
  ⟨nofun, nofun, nofun, nofun, nofun, fun _ => ⟨hh, hw, hv, hc⟩, nofun⟩

theorem State.ReadyAt.fold {s : State} (hh : s.hv = true) (hw : s.wv = true) (hv : s.vv = true)
    (hc : s.cur = Op.compress ∨ (s.cur = Op.hash ∧ s.BlockInBuffer)) : s.ReadyAt Phase.fold :=
  ⟨nofun, nofun, nofun, nofun, nofun, fun _ => ⟨hh, hw, hv, hc⟩, nofun⟩

theorem State.ReadyAt.discard {s : State} (hh : s.hv = true) (hc : s.cur = Op.hash) : s.ReadyAt Phase.discard :=
  ⟨nofun, nofun, nofun, nofun, nofun, nofun, fun _ => ⟨hh, hc⟩⟩

/-! Ways to a busy and to a completed state. -/

/-- A command accepted while idle that leaves PB, PBV and PLEN alone. -/
theorem State.Inv.accepted {s t : State} (p : BitVec 4) (h : s.Inv) (hi : s.idle = true)
    (ht : t = { s with cur := t.cur, busy := true, done := false, phase := p, blk := t.blk, t := t.t })
    (hp : 1 ≤ p.toNat ∧ p.toNat ≤ 8) (hx : t.ReadyAt p) : t.Inv := by
  obtain ⟨hf, hb⟩ := s.idle_iff.1 hi
  rw [ht] at hx ⊢
  exact State.inv_of_busy p h.msgForm h.msgInSpace h.pbForm rfl hf rfl rfl hp (h.fcause_eq_zero hf) h.plenLegal
    h.pbvPlen (fun _ => h.pbContent (h.phase_ne_padbyte hb)) hx

/-- PLEN and the checked lengths after the acceptance of PAD and HASH (41_padding.md R144). -/
theorem State.openBuffer_checked {s : State} (hc : s.checkLength = none) :
    s.openBuffer.LengthsChecked ∧ s.openBuffer.plen.toNat % 64 = 0 ∧ 64 ≤ s.openBuffer.plen.toNat ∧
      s.openBuffer.plen.toNat ≤ 2 ^ 61 + 64 := by
  obtain ⟨hl, hm, hb⟩ := s.checkLength_none.1 hc
  obtain ⟨hmax, hmin, hmod, hfit⟩ := plenOf_fits hl
  have hp : s.openBuffer.plen.toNat = plenOf s.mlen.toNat := hfit
  exact ⟨⟨hl, hm, hb, hp⟩, by omega, by omega, by omega⟩

/-- PAD or HASH accepted while idle: the buffer is open. -/
theorem State.Inv.acceptedOpen {s t : State} (p : BitVec 4) (h : s.Inv) (hi : s.idle = true)
    (hc : s.checkLength = none)
    (ht : t = { s.openBuffer with cur := t.cur, busy := true, done := false, phase := p, pidx := t.pidx })
    (hp : 1 ≤ p.toNat ∧ p.toNat ≤ 8) (hx : t.ReadyAt p) : t.Inv := by
  obtain ⟨hf, _⟩ := s.idle_iff.1 hi
  rw [ht] at hx ⊢
  exact State.inv_of_busy p h.msgForm h.msgInSpace rfl rfl hf rfl rfl hp (h.fcause_eq_zero hf)
    (.inr (State.openBuffer_checked hc).2) nofun (fun _ _ => rfl) hx

/-- A micro-operation that goes on to phase `p`, with PB and PBV as they then are. -/
theorem State.Inv.goesOn {s t : State} (p : BitVec 4) (h : s.Inv) (hb : s.busy = true)
    (ht : t = { s with h := t.h, v := t.v, w := t.w, pb := t.pb, pbv := t.pbv, phase := p, blk := t.blk, t := t.t,
                       pidx := t.pidx, fresh := t.fresh })
    (hp : 1 ≤ p.toNat ∧ p.toNat ≤ 8) (form : t.pb.wf = true) (legal : t.pbv = true → s.plen ≠ 0)
    (content : p ≠ Phase.padbyte → ∀ a, (t.pb.read a).isSome = (t.pbv && decide (a < s.plen.toNat)))
    (hx : t.ReadyAt p) : t.Inv := by
  have hf := h.busyFault hb
  rw [ht] at hx ⊢
  exact State.inv_of_busy p h.msgForm h.msgInSpace form hb hf (h.busyDone hb) rfl hp (h.fcause_eq_zero hf)
    h.plenLegal legal content hx

/-- The same, for a micro-operation that leaves PB and PBV alone. -/
theorem State.Inv.goesOnSamePB {s t : State} (p : BitVec 4) (h : s.Inv) (hb : s.busy = true)
    (hs : s.phase ≠ Phase.padbyte)
    (ht : t = { s with h := t.h, v := t.v, w := t.w, phase := p, blk := t.blk, t := t.t, pidx := t.pidx,
                       fresh := t.fresh })
    (hp : 1 ≤ p.toNat ∧ p.toNat ≤ 8) (hx : t.ReadyAt p) : t.Inv := by
  rw [ht] at hx ⊢
  exact h.goesOn p hb rfl hp h.pbForm h.pbvPlen (fun _ => h.pbContent hs) hx

/-- A micro-operation that completes its command, with PB and PBV as they then are. -/
theorem State.Inv.completed {s t : State} (h : s.Inv) (hb : s.busy = true)
    (ht : t = { s with h := t.h, v := t.v, w := t.w, pb := t.pb, pbv := t.pbv, busy := false, done := true,
                       phase := Phase.idle, fresh := t.fresh })
    (form : t.pb.wf = true) (legal : t.pbv = true → s.plen ≠ 0)
    (content : ∀ a, (t.pb.read a).isSome = (t.pbv && decide (a < s.plen.toNat))) : t.Inv := by
  have hf := h.busyFault hb
  rw [ht]
  exact State.inv_of_idle h.msgForm h.msgInSpace form rfl hf rfl (h.fcause_eq_zero hf) h.plenLegal legal content

/-- The same, for a micro-operation that leaves PB and PBV alone. -/
theorem State.Inv.completedSamePB {s t : State} (h : s.Inv) (hb : s.busy = true) (hs : s.phase ≠ Phase.padbyte)
    (ht : t = { s with h := t.h, v := t.v, w := t.w, busy := false, done := true, phase := Phase.idle,
                       fresh := t.fresh }) : t.Inv := by
  rw [ht]
  exact h.completed hb rfl h.pbForm h.pbvPlen (h.pbContent hs)

/-- What the invariant says for HASH, where CUR tells that the command is HASH. -/
theorem of_cur_hash {s : State} {op : BitVec 4} {P : Prop} (hcur : s.cur = Op.hash)
    (h : s.cur = op ∨ (s.cur = Op.hash ∧ P)) (hop : op ≠ Op.hash) : P := by
  rcases h with h | ⟨_, hP⟩
  · exact absurd (h.symm.trans hcur) hop
  · exact hP

/-! Files of registers and counters. -/

theorem definedBelow_zero {n : Nat} (file : Vector Reg n) : definedBelow file 0 := fun _ _ h => absurd h (by omega)

theorem definedBelow_set {n k : Nat} {file : Vector Reg n} (h : definedBelow file k) (hk : k < n) (x : Word) :
    definedBelow (file.set k (some x) hk) (k + 1) := by
  intro i hi hik
  rw [Vector.getElem_set]
  split
  · rfl
  · exact h i hi (by omega)

theorem allDefined_of_definedBelow {n : Nat} {file : Vector Reg n} (h : definedBelow file n) :
    allDefined file = true := (allDefined_iff file).2 fun i hi => h i hi hi

theorem toNat_t_succ {t : BitVec 6} (h : t.toNat < 63) : (t + 1).toNat = t.toNat + 1 := by
  show (t.toNat + 1) % 2 ^ 6 = t.toNat + 1
  omega

/-- BLK + 1 does not wrap while it names a block of the buffer (10_state.md R38). -/
theorem toNat_blk_succ {b : BitVec 56} {P : Nat} (h : b.toNat + 1 < P / 64) (hP : P ≤ 2 ^ 61 + 64) :
    (b + 1).toNat = b.toNat + 1 := by
  show (b.toNat + 1) % 2 ^ 56 = b.toNat + 1
  omega

theorem State.Inv.plen_le {s : State} (h : s.Inv) : s.plen.toNat ≤ 2 ^ 61 + 64 := by
  rcases h.plenLegal with e | ⟨_, _, e⟩
  · simp [e]
  · exact e

/-! Acceptances. -/

theorem execInit_keeps_inv {s : State} (h : s.Inv) : Answers (exec .init s) State.Inv :=
  ⟨_, rfl, h.issue fun hi _ => h.accepted Phase.init hi rfl (by decide) (.init (.inl rfl))⟩

theorem execPad_keeps_inv {s : State} (h : s.Inv) : Answers (exec .pad s) State.Inv := by
  refine ⟨_, rfl, h.issue fun hi hc => ?_⟩
  obtain ⟨hl, _, hmin, _⟩ := State.openBuffer_checked hc
  exact h.acceptedOpen Phase.padbyte hi hc rfl (by decide)
    (.padbyte ⟨hl.length, hl.message, hl.buffer, hl.padded⟩ (Nat.lt_of_lt_of_le (Nat.zero_lt_succ 63) hmin) rfl
      (fun _ => rfl) (.inl rfl))

theorem execHash_keeps_inv {s : State} (h : s.Inv) : Answers (exec .hash s) State.Inv := by
  refine ⟨_, rfl, h.issue fun hi hc => ?_⟩
  obtain ⟨hl, _⟩ := State.openBuffer_checked hc
  exact h.acceptedOpen Phase.init hi hc rfl (by decide)
    (.init (.inr ⟨rfl, rfl, ⟨hl.length, hl.message, hl.buffer, hl.padded⟩⟩))

theorem execSchedule_keeps_inv {s : State} (h : s.Inv) : Answers (exec .schedule s) State.Inv := by
  refine ⟨_, rfl, h.issue fun hi hc => ?_⟩
  obtain ⟨hv, ha⟩ := s.checkBlock_none.1 hc
  have hfit : (s.arg.setWidth 56).toNat = s.arg.toNat := by
    have := h.plen_le
    rw [BitVec.toNat_setWidth, Nat.mod_eq_of_lt (by omega)]
  refine h.accepted Phase.loadw hi rfl (by decide) (.loadw ⟨hv, ?_⟩ (Nat.zero_le 15) (definedBelow_zero _) (.inl rfl))
  exact hfit.trans_lt ha

theorem execCompress_keeps_inv {s : State} (h : s.Inv) : Answers (exec .compress s) State.Inv := by
  refine ⟨_, rfl, h.issue fun hi hc => ?_⟩
  obtain ⟨hh, hw⟩ := s.checkOperands_none.1 hc
  exact h.accepted Phase.loadv hi rfl (by decide) (.loadv hh hw (.inl rfl))

/-- The five instructions a command word can name (30_encoding.md R91). -/
theorem decodeCommand_cases {w : BitVec 32} {i : Instr} (h : decodeCommand w = .ok i) :
    i = .init ∨ i = .pad ∨ i = .schedule ∨ i = .compress ∨ i = .hash := by
  unfold decodeCommand at h
  repeat' (split at h)
  all_goals cases h
  all_goals simp

theorem State.Inv.writeCmd {s : State} (h : s.Inv) (c : BitVec 32) : Answers (s.writeCmd c) State.Inv := by
  unfold State.writeCmd
  split
  · rename_i i hi
    rcases decodeCommand_cases hi with rfl | rfl | rfl | rfl | rfl
    · exact execInit_keeps_inv h
    · exact execPad_keeps_inv h
    · exact execSchedule_keeps_inv h
    · exact execCompress_keeps_inv h
    · exact execHash_keeps_inv h
  · exact ⟨_, rfl, h.whenIdle fun _ => h.raise _⟩

/-! Micro-operations, one by one (44_digest_engine.md R212). -/

theorem execUInit_keeps_inv {s : State} (h : s.Inv) (hp : s.phase = Phase.init) :
    Answers (exec .uInit s) State.Inv := by
  have hb := h.busy_of_phase hp (by decide)
  have hs : s.phase ≠ Phase.padbyte := by rw [hp]; decide
  refine ⟨_, rfl, ?_⟩
  split
  · rename_i hc
    obtain ⟨hv, hl⟩ := of_cur_hash hc (h.inInit hp) (by decide)
    have hmin : 0 < s.plen.toNat := by rw [hl.padded]; unfold plenOf; omega
    refine h.goesOnSamePB Phase.padbyte hb hs rfl (by decide)
      (.padbyte ⟨hl.length, hl.message, hl.buffer, hl.padded⟩ hmin hv (fun a => ?_) (.inr ⟨hc, ?_⟩))
    · exact (h.pbContent hs a).trans (by simp [hv])
    · exact allDefined_defined8 _
  · exact h.completedSamePB hb hs rfl

/-- PB with one byte more. -/
theorem Memory.isSome_read_write {m : Memory} {i : Nat} (x : Byte)
    (h : ∀ a, (m.read a).isSome = decide (a < i)) (a : Nat) : ((m.write i x).read a).isSome = decide (a < i + 1) := by
  rw [Memory.read_write]
  split
  · simp; omega
  · rw [h]; simp; omega

theorem execUPadbyte_keeps_inv {s : State} (h : s.Inv) (hp : s.phase = Phase.padbyte) :
    Answers (exec .uPadbyte s) State.Inv := by
  have hb := h.busy_of_phase hp (by decide)
  obtain ⟨hl, hi, hv, hpb, hc⟩ := h.inPadbyte hp
  have form := Memory.wf_write s.pidx.toNat s.padOperand h.pbForm
  have written := Memory.isSome_read_write s.padOperand hpb
  refine ⟨_, rfl, ?_⟩
  split
  · rename_i hlt
    have hfit : (BitVec.ofNat 64 (s.pidx.toNat + 1)).toNat = s.pidx.toNat + 1 := by
      have := s.plen.isLt
      rw [BitVec.toNat_ofNat, Nat.mod_eq_of_lt (by omega)]
    have hnext : s.pidx.toNat + 1 < s.plen.toNat := by omega
    refine h.goesOn Phase.padbyte hb ?_ (by decide) form h.pbvPlen (fun hne => absurd rfl hne)
      (.padbyte ⟨hl.length, hl.message, hl.buffer, hl.padded⟩ (hfit.trans_lt hnext) hv (hfit.symm ▸ written) hc)
    rw [← hp]; rfl
  · rename_i hlast
    have hlen : s.pidx.toNat + 1 = s.plen.toNat := by omega
    have legal : s.plen ≠ 0 := by intro e; rw [e] at hi; exact absurd hi (by simp)
    have content : ∀ a, ((s.pb.write s.pidx.toNat s.padOperand).read a).isSome =
        (true && decide (a < s.plen.toNat)) := fun a => (written a).trans (by rw [hlen, Bool.true_and])
    simp only []
    split
    · rename_i hcur
      have hh : s.hv = true := of_cur_hash hcur hc (by decide)
      have hblk : 0 < s.plen.toNat / 64 := by rw [hl.padded]; unfold plenOf; omega
      exact h.goesOn Phase.loadw hb rfl (by decide) form (fun _ => legal) (fun _ => content)
        (.loadw ⟨rfl, hblk⟩ (Nat.zero_le 15) (definedBelow_zero _) (.inr ⟨hcur, hh⟩))
    · exact h.completed hb rfl form (fun _ => legal) content

theorem execULoadw_keeps_inv {s : State} (h : s.Inv) (hp : s.phase = Phase.loadw) :
    Answers (exec .uLoadw s) State.Inv := by
  have hb := h.busy_of_phase hp (by decide)
  have hs : s.phase ≠ Phase.padbyte := by rw [hp]; decide
  obtain ⟨hblk, ht, hw, hc⟩ := h.inLoadw hp
  have hnext : (s.t + 1).toNat = s.t.toNat + 1 := toNat_t_succ (by omega)
  have hw' : definedBelow (s.w.set s.t.toNat (some (s.pbWord s.wordAddr)) s.t.isLt) (s.t + 1).toNat := by
    rw [hnext]; exact definedBelow_set hw _ _
  refine ⟨_, rfl, ?_⟩
  split
  · rename_i h15
    have h16 : 16 ≤ (s.t + 1).toNat := by rw [h15]; decide
    exact h.goesOnSamePB Phase.expand hb hs rfl (by decide) (.expand ⟨hblk.defined, hblk.inRange⟩ h16 hw' hc)
  · rename_i h15
    have h14 : (s.t + 1).toNat ≤ 15 := by
      have : s.t.toNat ≠ 15 := fun e => h15 (BitVec.eq_of_toNat_eq e)
      omega
    refine h.goesOnSamePB Phase.loadw hb hs ?_ (by decide) (.loadw ⟨hblk.defined, hblk.inRange⟩ h14 hw' hc)
    rw [← hp]; rfl

theorem execUExpand_keeps_inv {s : State} (h : s.Inv) (hp : s.phase = Phase.expand) :
    Answers (exec .uExpand s) State.Inv := by
  have hb := h.busy_of_phase hp (by decide)
  have hs : s.phase ≠ Phase.padbyte := by rw [hp]; decide
  obtain ⟨hblk, ht, hw, hc⟩ := h.inExpand hp
  have hw' := definedBelow_set hw s.t.isLt s.expandOperand
  refine ⟨_, rfl, ?_⟩
  split
  · rename_i hlt
    have hnext := toNat_t_succ hlt
    refine h.goesOnSamePB Phase.expand hb hs ?_ (by decide)
      (.expand ⟨hblk.defined, hblk.inRange⟩ (Nat.le_trans (by omega) hnext.ge) ?_ hc)
    · rw [← hp]; rfl
    · exact hnext.symm ▸ hw'
  · rename_i hge
    split
    · rename_i hcur
      have hh : s.hv = true := of_cur_hash hcur hc (by decide)
      have h64 : s.t.toNat + 1 = 64 := by have := s.t.isLt; omega
      have hwv := allDefined_of_definedBelow (h64 ▸ hw')
      exact h.goesOnSamePB Phase.loadv hb hs rfl (by decide)
        (.loadv hh hwv (.inr ⟨hcur, ⟨hblk.defined, hblk.inRange⟩⟩))
    · exact h.completedSamePB hb hs rfl

theorem execULoadv_keeps_inv {s : State} (h : s.Inv) (hp : s.phase = Phase.loadv) :
    Answers (exec .uLoadv s) State.Inv := by
  have hb := h.busy_of_phase hp (by decide)
  obtain ⟨hh, hw, hc⟩ := h.inLoadv hp
  exact ⟨_, rfl, h.goesOnSamePB Phase.round hb (by rw [hp]; decide) rfl (by decide)
    (.round hh hw (allDefined_defined8 _) (hc.imp_right fun ⟨hc, hblk⟩ => ⟨hc, hblk.defined, hblk.inRange⟩))⟩

theorem execURound_keeps_inv {s : State} (h : s.Inv) (hp : s.phase = Phase.round) :
    Answers (exec .uRound s) State.Inv := by
  have hb := h.busy_of_phase hp (by decide)
  have hs : s.phase ≠ Phase.padbyte := by rw [hp]; decide
  obtain ⟨hh, hw, _, hc⟩ := h.inRound hp
  refine ⟨_, rfl, ?_⟩
  split
  · refine h.goesOnSamePB Phase.round hb hs ?_ (by decide)
      (.round hh hw (allDefined_defined8 _) (hc.imp_right fun ⟨hc, hblk⟩ => ⟨hc, hblk.defined, hblk.inRange⟩))
    rw [← hp]; rfl
  · exact h.goesOnSamePB Phase.fold hb hs rfl (by decide)
      (.fold hh hw (allDefined_defined8 _) (hc.imp_right fun ⟨hc, hblk⟩ => ⟨hc, hblk.defined, hblk.inRange⟩))

theorem execUFold_keeps_inv {s : State} (h : s.Inv) (hp : s.phase = Phase.fold) :
    Answers (exec .uFold s) State.Inv := by
  have hb := h.busy_of_phase hp (by decide)
  have hs : s.phase ≠ Phase.padbyte := by rw [hp]; decide
  obtain ⟨_, _, _, hc⟩ := h.inFold hp
  refine ⟨_, rfl, ?_⟩
  split
  · rename_i hcur
    have hblk : s.BlockInBuffer := of_cur_hash hcur hc (by decide)
    split
    · exact h.goesOnSamePB Phase.discard hb hs rfl (by decide) (.discard (allDefined_defined8 _) hcur)
    · rename_i hlast
      have hlt : s.blk.toNat + 1 < s.plen.toNat / 64 := Nat.lt_of_le_of_ne hblk.inRange hlast
      exact h.goesOnSamePB Phase.loadw hb hs rfl (by decide)
        (.loadw ⟨hblk.defined, (toNat_blk_succ hlt h.plen_le).trans_lt hlt⟩ (Nat.zero_le 15) (definedBelow_zero _)
          (.inr ⟨hcur, allDefined_defined8 _⟩))
  · exact h.completedSamePB hb hs rfl

theorem execUDiscard_keeps_inv {s : State} (h : s.Inv) (hp : s.phase = Phase.discard) :
    Answers (exec .uDiscard s) State.Inv :=
  ⟨_, rfl, h.completed (h.busy_of_phase hp (by decide)) rfl rfl nofun (fun _ => rfl)⟩

/-! Turns and steps. -/

/-- In every phase the micro-operation it selects keeps the invariant. -/
theorem State.Inv.microOp {s : State} {i : Instr} (h : s.Inv) (hi : decodePhase s.phase = .ok i) :
    Answers (exec i s) State.Inv := by
  rcases decodePhase_cases hi with
    ⟨hp, rfl⟩ | ⟨hp, rfl⟩ | ⟨hp, rfl⟩ | ⟨hp, rfl⟩ | ⟨hp, rfl⟩ | ⟨hp, rfl⟩ | ⟨hp, rfl⟩ | ⟨hp, rfl⟩
  · exact execUInit_keeps_inv h hp
  · exact execUPadbyte_keeps_inv h hp
  · exact execULoadw_keeps_inv h hp
  · exact execUExpand_keeps_inv h hp
  · exact execULoadv_keeps_inv h hp
  · exact execURound_keeps_inv h hp
  · exact execUFold_keeps_inv h hp
  · exact execUDiscard_keeps_inv h hp

theorem State.Inv.engineTurn {s : State} (h : s.Inv) : Answers s.engineTurn State.Inv := by
  unfold State.engineTurn
  split
  · split
    · exact h.microOp ‹_›
    · exact ⟨s, rfl, h⟩
  · exact ⟨s, rfl, h⟩

/-- Settles O49: each way a step can go (`StepShape`) keeps the invariant. -/
theorem invariantKept : Obligations.InvariantKept := by
  unfold Obligations.InvariantKept
  intro s t h hst
  cases step_cases hst with
  | engine _ ht => exact (h.setHost _).engineTurn.of_next ht
  | command _ ht => exact ((h.setHost _).writeCmd _).of_next ht
  | write _ _ ha hm => exact (h.setHost _).whenIdle fun hi => (h.setHost _).hostWrite hi ha hm
  | nothing => exact h.setHost _
  | read => exact (h.setHost _).record _
  | reset => exact State.applyReset_inv _

/-- Settles O48: the reset state is idle, its memories are empty and PLEN is 0. -/
theorem invariantAtReset : Obligations.InvariantAtReset :=
  State.inv_of_idle rfl nofun rfl rfl rfl rfl rfl (.inl rfl) nofun (fun _ => rfl)

end Sys2Proof.Machine
end

section
/-! The HOST's ports (10_state.md R30, R32, R33, R43): what a read of each register returns, the layout of STATUS, what
writes do when idle, and what may change FCAUSE. -/

namespace Sys2Proof.Machine

/-! Reads of a register by its number (10_state.md R30), and when a read shows the content (R43). -/

theorem State.shown_of_visible {width : Nat} {s : State} {visible : Bool} (slot : Nat) (x : BitVec width)
    (h : visible = true) : s.shown visible slot x = x := if_pos h

theorem State.notBusy_iff (s : State) : s.notBusy = true ↔ s.fault = true ∨ s.busy = false := by
  simp [State.notBusy]

theorem State.readReg_k (s : State) (i : BitVec 6) : s.readReg (0x80 + i.toNat) = ⟨32, Rom.k i⟩ := by
  rw [State.readReg, portReg_k]

theorem State.readReg_h0 (s : State) (j : Fin 8) : s.readReg (0xC0 + j.val) = ⟨32, Rom.h0[j]⟩ := by
  rw [State.readReg, portReg_h0]

theorem State.readReg_status (s : State) : s.readReg 0x01 = ⟨32, s.status⟩ := rfl

theorem State.readReg_fcause (s : State) : s.readReg 0x02 = ⟨32, s.fcause.setWidth 32⟩ := rfl

theorem State.readReg_h {s : State} {j : Fin 8} {x : Word} (hi : s.idle = true) (hx : s.h[j] = some x) :
    s.readReg (0x10 + j.val) = ⟨32, x⟩ := by
  rw [State.readReg, portReg_h]
  simp only [State.shown_of_visible _ _ hi, State.readH_of_some hx]

theorem State.readReg_v {s : State} {j : Fin 8} {x : Word} (hi : s.idle = true) (hx : s.v[j] = some x) :
    s.readReg (0x18 + j.val) = ⟨32, x⟩ := by
  rw [State.readReg, portReg_v]
  simp only [State.shown_of_visible _ _ hi, State.readV_of_some hx]

theorem State.readReg_w {s : State} {i : BitVec 6} {x : Word} (hi : s.idle = true)
    (hx : s.w[i.toNat]'i.isLt = some x) : s.readReg (0x40 + i.toNat) = ⟨32, x⟩ := by
  rw [State.readReg, portReg_w]
  simp only [State.shown_of_visible _ _ hi, State.readW_of_some hx]

theorem State.readReg_lengths {s : State} (h : s.notBusy = true) :
    s.readReg 0x03 = ⟨64, s.mlen⟩ ∧ s.readReg 0x04 = ⟨64, s.arg⟩ ∧ s.readReg 0x05 = ⟨64, s.plen⟩ :=
  ⟨congrArg (PortValue.mk 64) (s.shown_of_visible _ _ h), congrArg (PortValue.mk 64) (s.shown_of_visible _ _ h),
    congrArg (PortValue.mk 64) (s.shown_of_visible _ _ h)⟩

/-- All registers of a file are defined, as the statements say it. -/
theorem allDefined_iff_ne_none {n : Nat} (file : Vector Reg n) :
    allDefined file = true ↔ ∀ j : Fin n, file[j] ≠ none := by
  simp only [allDefined_iff, Option.isSome_iff_ne_none]
  exact ⟨fun h j => h j.val j.isLt, fun h i hi => h ⟨i, hi⟩⟩

theorem State.hv_of_some {s : State} {x : Vector Word 8} (h : ∀ j : Fin 8, s.h[j] = some x[j]) : s.hv = true :=
  (allDefined_iff_ne_none s.h).2 fun j => by rw [h j]; nofun

/-- The two views of a defined H (10_state.md R39). -/
theorem State.readReg_views {s : State} {x : Vector Word 8} (hi : s.idle = true)
    (hx : ∀ j : Fin 8, s.h[j] = some x[j]) :
    s.readReg 0x06 = ⟨256, digestView x⟩ ∧ s.readReg 0x07 = ⟨512, hexView x⟩ := by
  have hvis : (s.idle && s.hv) = true := by rw [hi, State.hv_of_some hx]; rfl
  rw [← State.allH_of_some hx]
  exact ⟨congrArg (PortValue.mk 256) (s.shown_of_visible _ _ hvis),
    congrArg (PortValue.mk 512) (s.shown_of_visible _ _ hvis)⟩

/-- Settles O32: the reads of the map, register by register. -/
theorem hostReadValues : Obligations.HostReadValues := by
  unfold Obligations.HostReadValues
  intro s
  refine ⟨s.readReg_k, s.readReg_h0, ?_, fun h => State.readReg_lengths (s.notBusy_iff.2 h), ?_⟩
  · rw [s.readReg_fcause, BitVec.ofNat_toNat]
  intro hf hb
  have hi := s.idle_iff.2 ⟨hf, hb⟩
  exact ⟨fun _ _ => State.readReg_h hi, fun _ _ => State.readReg_v hi, fun _ _ => State.readReg_w hi,
    fun _ => State.readReg_views hi⟩

/-! The layout of STATUS (10_state.md R32). -/

/-- The seven named bits of STATUS, from bit 0 up. -/
theorem statusWord_bits (pbv vv wv hv fault done busy : Bool) :
    let x := statusWord pbv vv wv hv fault done busy
    x.getLsbD 0 = busy ∧ x.getLsbD 1 = done ∧ x.getLsbD 2 = fault ∧ x.getLsbD 3 = hv ∧ x.getLsbD 4 = wv ∧
      x.getLsbD 5 = vv ∧ x.getLsbD 6 = pbv := by
  revert pbv vv wv hv fault done busy
  decide

theorem statusWord_lt (pbv vv wv hv fault done busy : Bool) :
    (statusWord pbv vv wv hv fault done busy).toNat < 2 ^ 7 := by
  revert pbv vv wv hv fault done busy
  decide

theorem statusWord_high (pbv vv wv hv fault done busy : Bool) {k : Nat} (hk : 7 ≤ k) :
    (statusWord pbv vv wv hv fault done busy).getLsbD k = false :=
  Nat.testBit_lt_two_pow (Nat.lt_of_lt_of_le (statusWord_lt ..) (Nat.pow_le_pow_right (by decide) hk))

theorem State.status_of_notBusy {s : State} (h : s.busy = false) :
    s.status = statusWord s.pbv s.vv s.wv s.hv s.fault s.done s.busy := by
  rw [State.status, if_neg (by simp [h])]

/-- In every engine condition BUSY, DONE and FAULT are shown; the validity bits are some bits. -/
theorem State.status_eq_statusWord (s : State) :
    ∃ pbv vv wv hv, s.status = statusWord pbv vv wv hv s.fault s.done s.busy := by
  cases hb : s.busy
  · exact ⟨_, _, _, _, hb ▸ State.status_of_notBusy hb⟩
  · exact ⟨_, _, _, _, by rw [State.status, if_pos hb, hb]⟩

/-- Settles O33: the bits of `statusWord`, whose validity bits are those of the files while BUSY = 0. -/
theorem statusLayout : Obligations.StatusLayout := by
  unfold Obligations.StatusLayout
  intro s
  obtain ⟨pbv, vv, wv, hv, e⟩ := s.status_eq_statusWord
  obtain ⟨h0, h1, h2, _⟩ := statusWord_bits pbv vv wv hv s.fault s.done s.busy
  refine ⟨s.readReg_status, ?_, ?_, ?_, fun k hk => ?_, fun hb => ?_⟩
  · rw [e, h0]
  · rw [e, h1]
  · rw [e, h2]
  · rw [e, statusWord_high _ _ _ _ _ _ _ hk]
  · obtain ⟨_, _, _, h3, h4, h5, h6⟩ := statusWord_bits s.pbv s.vv s.wv s.hv s.fault s.done s.busy
    rw [State.status_of_notBusy hb, h3, h4, h5, h6]
    exact ⟨allDefined_iff_ne_none s.h, allDefined_iff_ne_none s.w, allDefined_iff_ne_none s.v, rfl⟩

/-- STATUS of an engine that is not busy, not done, not faulted and holds nothing. -/
theorem State.status_of_undefined {s : State} (hb : s.busy = false) (hd : s.done = false) (hf : s.fault = false)
    (hp : s.pbv = false) (h : s.h = Vector.replicate 8 none) (v : s.v = Vector.replicate 8 none)
    (w : s.w = Vector.replicate 64 none) : s.status = 0 := by
  have hhv : s.hv = false := by rw [State.hv, h]; exact allDefined_undefined (by decide)
  have hvv : s.vv = false := by rw [State.vv, v]; exact allDefined_undefined (by decide)
  have hwv : s.wv = false := by rw [State.wv, w]; exact allDefined_undefined (by decide)
  rw [State.status_of_notBusy hb, hp, hvv, hwv, hhv, hf, hd, hb]
  decide

/-! Reset (10_state.md R44). -/

/-- Settles O6: RESET leaves the reset state but for the parameters, the HOST's lists and the model's counters, and the
listed values do not depend on these. -/
theorem resetLeavesTheListedValues : Obligations.ResetLeavesTheListedValues := by
  unfold Obligations.ResetLeavesTheListedValues
  intro atReset
  have key (p : Params) (l : List HostEvent) (r : List PortValue) (f e : Nat) :
      atReset { State.reset with par := p, host := l, results := r, fresh := f, epoch := e } :=
    ⟨fun j => ⟨Vector.getElem_replicate j.isLt, Vector.getElem_replicate j.isLt⟩,
      fun i => Vector.getElem_replicate i.isLt, State.readReg_k _, State.readReg_h0 _, fun _ => rfl, rfl, fun _ => rfl,
      rfl, rfl, rfl, State.status_of_undefined rfl rfl rfl rfl rfl rfl rfl, rfl, rfl, rfl, rfl, rfl, rfl,
      State.engineTurn_idle rfl⟩
  exact ⟨key _ _ _ _ _, fun s rest h => ⟨_, step_cons h, key _ _ _ _ _⟩⟩

/-! Writes when idle (10_state.md R43). -/

theorem State.writeReg_h {s : State} (hi : s.idle = true) (j : Fin 8) (x : Word) :
    s.writeReg (0x10 + j.val) (x.setWidth 64) = .next (s.setH j x) := by
  rw [State.writeReg, portReg_h]
  simp only [State.whenIdle_idle _ hi, BitVec.setWidth_setWidth_of_le x (show 32 ≤ 64 by decide), BitVec.setWidth_eq]

theorem State.writeReg_w {s : State} (hi : s.idle = true) (t : BitVec 6) (x : Word) :
    s.writeReg (0x40 + t.toNat) (x.setWidth 64) = .next (s.setW t x) := by
  rw [State.writeReg, portReg_w]
  simp only [State.whenIdle_idle _ hi, BitVec.setWidth_setWidth_of_le x (show 32 ≤ 64 by decide), BitVec.setWidth_eq]

/-- Settles O34: each writable number names its register, and a write to it while idle is that register's update. -/
theorem hostWritesWhenIdle : Obligations.HostWritesWhenIdle := by
  unfold Obligations.HostWritesWhenIdle
  refine ⟨fun s rest hi => ⟨fun x h => ?_, fun x h => ?_, fun j x h => ?_, fun k x h => ?_⟩, fun s rest n x h hn => ?_⟩
  · rw [step_cons h]
    exact congrArg Host.Outcome.next (State.whenIdle_idle _ hi)
  · rw [step_cons h]
    exact congrArg Host.Outcome.next (State.whenIdle_idle _ hi)
  · refine ⟨_, (step_cons h).trans (State.writeReg_h (s := s.setHost rest) hi j x), rfl, ?_, fun i hij => ?_⟩
    · exact (reg_set_get s.h j.isLt x j).trans (if_pos rfl)
    · exact (reg_set_get s.h j.isLt x i).trans (if_neg (Fin.val_ne_of_ne hij))
  · refine ⟨_, (step_cons h).trans (State.writeReg_w (s := s.setHost rest) hi (BitVec.ofFin k) x), rfl, ?_,
      fun i hik => ?_⟩
    · exact (reg_set_get s.w k.isLt x k).trans (if_pos rfl)
    · exact (reg_set_get s.w k.isLt x i).trans (if_neg (Fin.val_ne_of_ne hik))
  · rw [step_cons h]
    rcases (s.setHost rest).writeReg_cases n x with ⟨h0, _⟩ | ⟨hw, _⟩ | ⟨_, e⟩
    · omega
    · omega
    · exact e

/-! MSG and PB at the ports (10_state.md R40, R41). -/

theorem State.writeMsg_idle {s : State} {a : Nat} (b : Byte) (hs : inSpace s.par.msgBytes a = true)
    (hi : s.idle = true) : s.writeMsg a b = { s with msg := s.msg.write a b } := by
  rw [State.writeMsg, if_pos hs, State.whenIdle_idle _ hi]

theorem State.writeMsg_no_effect {s : State} {a : Nat} (b : Byte)
    (h : inSpace s.par.msgBytes a = false ∨ s.fault = true) : s.writeMsg a b = s := by
  unfold State.writeMsg
  split
  · rename_i hs
    rcases h with h | hf
    · exact absurd (hs.symm.trans h) (by decide)
    · exact State.whenIdle_faulted _ hf
  · rfl

theorem State.readMsg_of_notBusy {s : State} {a : Nat} (hb : s.notBusy = true)
    (hs : inSpace s.par.msgBytes a = true) : s.readMsg a = ⟨8, s.msgByte a⟩ := by
  rw [State.readMsg, State.shown_of_visible _ _ (by rw [hb, hs]; rfl)]

/-- MSG after a byte of it is written. -/
theorem State.msgByte_write (s : State) (a : Nat) (b : Byte) (x : Nat) :
    State.msgByte { s with msg := s.msg.write a b } x = if x = a then b else s.msgByte x := by
  simp only [State.msgByte, Memory.read_write]
  split <;> rfl

theorem State.readMsg_write {s : State} {a : Nat} (b : Byte) (hb : s.notBusy = true)
    (hs : inSpace s.par.msgBytes a = true) : State.readMsg { s with msg := s.msg.write a b } a = ⟨8, b⟩ := by
  rw [State.readMsg_of_notBusy (by exact hb) (by exact hs), State.msgByte_write, if_pos rfl]

/-- Settles O35: a byte written within MSG_BYTES while idle is read back; a write that has no effect leaves the state. -/
theorem msgWriteThenRead : Obligations.MsgWriteThenRead := by
  unfold Obligations.MsgWriteThenRead
  intro s a b rest h
  refine ⟨fun hs hi => ?_, fun hn => ?_, fun hf hs => State.readMsg_of_notBusy (s.notBusy_iff.2 (.inl hf)) hs⟩
  · have hwrite := State.writeMsg_idle (s := s.setHost rest) b hs hi
    refine ⟨_, (step_cons h).trans (congrArg Host.Outcome.next hwrite), rfl,
      (State.msgByte_write (s.setHost rest) a b a).trans (if_pos rfl),
      fun x hx => (State.msgByte_write (s.setHost rest) a b x).trans (if_neg hx), ?_⟩
    exact State.readMsg_write (s := s.setHost rest) b ((State.notBusy_iff _).2 (.inr (s.idle_iff.1 hi).2)) hs
  · rw [step_cons h]
    exact congrArg Host.Outcome.next (State.writeMsg_no_effect (s := s.setHost rest) b hn)

theorem State.readPB_of_some {s : State} {a : Nat} {b : Byte} (hi : s.idle = true) (hv : s.pbv = true)
    (ha : a < s.plen.toNat) (hb : s.pb.read a = some b) : s.readPB a = ⟨8, b⟩ := by
  rw [State.readPB, State.shown_of_visible _ _ (by simp [hi, hv, ha]), State.pbByte_of_some hb]

/-- Settles O36: the read shows the byte, and recording it leaves PB alone. -/
theorem paddedBufferReadable : Obligations.PaddedBufferReadable := by
  unfold Obligations.PaddedBufferReadable
  intro s a b rest h hi hv ha hb
  refine ⟨_, step_cons h, ?_, fun _ => rfl⟩
  rw [← State.readPB_of_some (s := s.setHost rest) hi hv ha hb]
  rfl

/-- Settles O31: a read only records its value (`State.record`), and WAIT is one round of `State.poll`. -/
theorem hostReadsChangeNothing : Obligations.HostReadsChangeNothing := by
  unfold Obligations.HostReadsChangeNothing
  refine fun s rest n => ⟨step_cons, step_cons, step_cons, fun h => ?_⟩
  by_cases hb : s.busy = true
  · rw [if_pos hb]; exact step_wait_busy h hb
  · rw [if_neg hb]; exact step_wait_done h (Bool.eq_false_of_not_eq_true hb)

/-! FCAUSE (10_state.md R33). -/

theorem fcause_bits (c : BitVec 4) :
    (c.setWidth 32).extractLsb' 0 4 = c ∧ (c.setWidth 32).extractLsb' 4 28 = 0 := by
  revert c
  decide

theorem State.whenIdle_fcause {s t : State} (ht : t.fcause = s.fcause)
    (h : (s.whenIdle t).fcause ≠ s.fcause) : s.fault = false ∧ (s.whenIdle t).fault = true := by
  rcases s.whenIdle_cases t with ⟨_, e⟩ | ⟨hf, _, e⟩ | ⟨_, e⟩ <;> rw [e] at h ⊢
  · exact absurd rfl h
  · exact ⟨hf, rfl⟩
  · exact absurd ht h

theorem State.issue_fcause {s t : State} {check : Option Cause} (ht : t.fcause = s.fcause)
    (h : (s.issue check t).fcause ≠ s.fcause) : s.fault = false ∧ (s.issue check t).fault = true := by
  rcases s.issue_cases check t with ⟨_, e⟩ | ⟨hf, _, e⟩ | ⟨hi, c, _, e⟩ | ⟨_, _, e⟩ <;> rw [e] at h ⊢
  · exact absurd rfl h
  · exact ⟨hf, rfl⟩
  · exact ⟨(s.idle_iff.1 hi).1, rfl⟩
  · exact absurd ht h

/-- Settles O60: of the ways a step can go, only fault entry and RESET write FCAUSE. -/
theorem faultCauseWrittenOnlyByFaultEntry : Obligations.FaultCauseWrittenOnlyByFaultEntry := by
  unfold Obligations.FaultCauseWrittenOnlyByFaultEntry
  refine ⟨fun s => ⟨_, s.readReg_fcause, fcause_bits s.fcause⟩, fun s t hst hc => ?_⟩
  cases step_cases hst with
  | @engine l _ _ ht =>
    obtain ⟨u, hu, ho⟩ := engineTurn_outside (s.setHost l)
    cases hu.symm.trans ht
    exact absurd ho.fcause hc
  | @command rest x _ _ ht =>
    obtain ⟨k, u, hu, _, _, hfc⟩ := (s.setHost rest).writeCmd_cases (x.setWidth 32)
    cases hu.symm.trans ht
    exact .inl (State.issue_fcause (s := s.setHost rest) hfc hc)
  | @write rest _ _ _ _ ha _ =>
    rw [ha] at hc ⊢
    exact .inl (State.whenIdle_fcause (s := s.setHost rest) rfl hc)
  | nothing => exact absurd rfl hc
  | read => exact absurd rfl hc
  | reset hh => exact .inr ⟨_, hh⟩

end Sys2Proof.Machine
end

section
/-! MSG and PB (20_memory.md): who may write which space, and what every step keeps of the memories' canonical form. -/

namespace Sys2Proof.Machine

/-! Ownership (20_memory.md R71, R258). -/

/-- A write of any register but CMD changes no more than MLEN, ARG, H and W, on an idle engine (10_state.md R43). -/
theorem State.writeReg_idle {s t : State} {n : Nat} {x : BitVec 64} (hi : s.idle = true) (hn : n ≠ 0x00)
    (h : s.writeReg n x = .next t) : t = { s with mlen := t.mlen, arg := t.arg, h := t.h, w := t.w } := by
  rcases s.writeReg_cases n x with ⟨h0, _⟩ | ⟨_, a, e, ha⟩ | ⟨_, e⟩
  · exact absurd h0 hn
  · rw [State.whenIdle_idle a hi] at e
    cases e.symm.trans h
    exact ha
  · cases e.symm.trans h
    rfl

/-- A write of a MSG byte changes no more than MSG, on an idle engine (10_state.md R40). -/
theorem State.writeMsg_idle_msg {s : State} (hi : s.idle = true) (a : Nat) (b : Byte) :
    s.writeMsg a b = { s with msg := (s.writeMsg a b).msg } := by
  cases hs : inSpace s.par.msgBytes a
  · rw [State.writeMsg_no_effect b (.inl hs)]
  · rw [State.writeMsg_idle b hs hi]

/-- Settles O37: `SameOutside` covers what the ENGINE must not change; a HOST data write changes only what
`State.writeReg_idle` and `State.writeMsg_idle_msg` name. -/
theorem ownershipOfSpaces : Obligations.OwnershipOfSpaces := by
  unfold Obligations.OwnershipOfSpaces
  refine ⟨fun s => ?_, fun s t rest hi hst hw => ?_⟩
  · obtain ⟨t, ht, ho⟩ := engineTurn_outside s
    exact ⟨t, ht, ho.msg, ho.epoch, ho.mlen, ho.arg, ho.par⟩
  · rcases hw with ⟨n, x, hn, hh⟩ | ⟨a, b, hh⟩
    · rw [State.writeReg_idle (s := s.setHost rest) hi hn ((step_cons hh).symm.trans hst)]
      exact ⟨rfl, rfl, rfl, rfl⟩
    · cases (step_cons hh).symm.trans hst
      rw [State.writeMsg_idle_msg (s := s.setHost rest) hi a b]
      exact ⟨rfl, rfl, rfl, rfl⟩

/-! What the ENGINE does to PB. -/

/-- U_PADBYTE writes one byte of PB, U_DISCARD empties it, and the other micro-operations leave it alone. -/
theorem microOp_pb {p : BitVec 4} {i : Instr} (h : decodePhase p = .ok i) (s : State) :
    Answers (exec i s) fun t => t.pb = s.pb ∨ t.pb = [] ∨ ∃ a x, t.pb = s.pb.write a x := by
  rcases decodePhase_cases h with
    ⟨_, rfl⟩ | ⟨_, rfl⟩ | ⟨_, rfl⟩ | ⟨_, rfl⟩ | ⟨_, rfl⟩ | ⟨_, rfl⟩ | ⟨_, rfl⟩ | ⟨_, rfl⟩
  · refine ⟨_, rfl, .inl ?_⟩
    split <;> rfl
  · refine ⟨_, rfl, .inr (.inr ⟨s.pidx.toNat, s.padOperand, ?_⟩)⟩
    split
    · rfl
    · simp only []
      split <;> rfl
  · refine ⟨_, rfl, .inl ?_⟩
    split <;> rfl
  · refine ⟨_, rfl, .inl ?_⟩
    split
    · rfl
    · split <;> rfl
  · exact ⟨_, rfl, .inl rfl⟩
  · refine ⟨_, rfl, .inl ?_⟩
    split <;> rfl
  · refine ⟨_, rfl, .inl ?_⟩
    split
    · split <;> rfl
    · rfl
  · exact ⟨_, rfl, .inr (.inl rfl)⟩

/-! The canonical form of both memories (20_memory.md R60) and the parameters (10_state.md R45). -/

/-- From `s` to `t` the parameters are the same, and each memory that is in canonical form stays so. -/
structure KeepsForms (s t : State) : Prop where
  par : t.par = s.par
  msg : s.msg.wf = true → t.msg.wf = true
  pb : s.pb.wf = true → t.pb.wf = true

theorem KeepsForms.refl (s : State) : KeepsForms s s := ⟨rfl, id, id⟩

theorem KeepsForms.raise (s : State) (c : Cause) : KeepsForms s (s.raise c) := ⟨rfl, id, fun _ => rfl⟩

theorem KeepsForms.applyReset (s : State) : KeepsForms s s.applyReset :=
  ⟨rfl, fun _ => reset_memory_wf.1, fun _ => reset_memory_wf.2⟩

/-- The HOST's list of statements is neither a memory nor a parameter. -/
theorem KeepsForms.of_setHost {s t : State} {l : List HostEvent} (h : KeepsForms (s.setHost l) t) : KeepsForms s t :=
  ⟨h.par, h.msg, h.pb⟩

theorem KeepsForms.whenIdle {s t : State} (h : KeepsForms s t) : KeepsForms s (s.whenIdle t) := by
  rcases s.whenIdle_cases t with ⟨_, e⟩ | ⟨_, _, e⟩ | ⟨_, e⟩ <;> rw [e]
  · exact .refl s
  · exact .raise s _
  · exact h

theorem KeepsForms.issue {s t : State} {check : Option Cause} (h : KeepsForms s t) :
    KeepsForms s (s.issue check t) := by
  rcases s.issue_cases check t with ⟨_, e⟩ | ⟨_, _, e⟩ | ⟨_, c, _, e⟩ | ⟨_, _, e⟩ <;> rw [e]
  · exact .refl s
  · exact .raise s _
  · exact .raise s c
  · exact h

/-- A command leaves both memories alone, or opens an empty Padded Buffer (41_padding.md R144, 44_digest_engine.md R207). -/
theorem writeCmd_keepsForms (s : State) (c : BitVec 32) : Answers (s.writeCmd c) (KeepsForms s) := by
  unfold State.writeCmd
  split
  · rename_i i hi
    rcases decodeCommand_cases hi with rfl | rfl | rfl | rfl | rfl
    · exact ⟨_, rfl, .issue ⟨rfl, id, id⟩⟩
    · exact ⟨_, rfl, .issue ⟨rfl, id, fun _ => rfl⟩⟩
    · exact ⟨_, rfl, .issue ⟨rfl, id, id⟩⟩
    · exact ⟨_, rfl, .issue ⟨rfl, id, id⟩⟩
    · exact ⟨_, rfl, .issue ⟨rfl, id, fun _ => rfl⟩⟩
  · exact ⟨_, rfl, .whenIdle (.raise s _)⟩

theorem microOp_keepsForms {p : BitVec 4} {i : Instr} (h : decodePhase p = .ok i) (s : State) :
    Answers (exec i s) (KeepsForms s) := by
  obtain ⟨t, ht, ho⟩ := microOp_outside h s
  refine ⟨t, ht, ho.par, fun hm => ho.msg ▸ hm, fun hp => ?_⟩
  rcases (microOp_pb h s).of_next ht with e | e | ⟨a, x, e⟩ <;> rw [e]
  · exact hp
  · rfl
  · exact Memory.wf_write a x hp

theorem engineTurn_keepsForms (s : State) : Answers s.engineTurn (KeepsForms s) := by
  unfold State.engineTurn
  split
  · split
    · exact microOp_keepsForms ‹_› s
    · exact ⟨s, rfl, .refl s⟩
  · exact ⟨s, rfl, .refl s⟩

/-- A write of the HOST's that needs an idle engine changes MSG by `Memory.write`, or not at all. -/
theorem KeepsForms.hostWrite {s a : State}
    (ha : a = { s with mlen := a.mlen, arg := a.arg, h := a.h, w := a.w, msg := a.msg })
    (hm : a.msg = s.msg ∨ ∃ k b, inSpace s.par.msgBytes k = true ∧ a.msg = s.msg.write k b) : KeepsForms s a := by
  refine ⟨by rw [ha], fun h => ?_, fun h => by rw [ha]; exact h⟩
  rcases hm with e | ⟨k, b, _, e⟩ <;> rw [e]
  · exact h
  · exact Memory.wf_write k b h

/-- Settles O50: each way a step can go (`StepShape`) keeps the forms. -/
theorem canonicalMemoriesKept : Obligations.CanonicalMemoriesKept := by
  unfold Obligations.CanonicalMemoriesKept
  intro s t hst
  have key : KeepsForms s t := by
    cases step_cases hst with
    | engine _ ht => exact ((engineTurn_keepsForms _).of_next ht).of_setHost
    | command _ ht => exact ((writeCmd_keepsForms _ _).of_next ht).of_setHost
    | write _ _ ha hm => exact (KeepsForms.hostWrite ha hm).whenIdle.of_setHost
    | nothing => exact (KeepsForms.refl _).of_setHost
    | read => exact ⟨rfl, id, id⟩
    | reset => exact (KeepsForms.applyReset _).of_setHost
  exact ⟨key.par, key.msg, key.pb⟩

end Sys2Proof.Machine
end

section
/-! The encodings (30_encoding.md R90 to R96): decoding and encoding as inverses, and the fields of a command word. -/

namespace Sys2Proof

/-! Decoding and encoding are inverse. -/

theorem decode_encode (i : Instr) : decode (encode i) = .ok i := by
  cases i with
  | init => exact Laws.RoundTrip.init.2
  | pad => exact Laws.RoundTrip.pad.2
  | schedule => exact Laws.RoundTrip.schedule.2
  | compress => exact Laws.RoundTrip.compress.2
  | hash => exact Laws.RoundTrip.hash.2
  | uInit => exact Laws.RoundTrip.uInit.2
  | uPadbyte => exact Laws.RoundTrip.uPadbyte.2
  | uLoadw => exact Laws.RoundTrip.uLoadw.2
  | uExpand => exact Laws.RoundTrip.uExpand.2
  | uLoadv => exact Laws.RoundTrip.uLoadv.2
  | uRound => exact Laws.RoundTrip.uRound.2
  | uFold => exact Laws.RoundTrip.uFold.2
  | uDiscard => exact Laws.RoundTrip.uDiscard.2

/-- The match is on all 32 bits, so a word that decodes is the one of R91's table. -/
theorem encode_of_decodeCommand {w : BitVec 32} {i : Instr} (h : decodeCommand w = .ok i) : encode i = .command w := by
  unfold decodeCommand at h
  split_ifs at h with hw hw hw hw hw <;> cases h <;> subst hw <;> rfl

/-- The match is on all four bits, so a PHASE code that decodes is the one of R95's table. -/
theorem encode_of_decodePhase {p : BitVec 4} {i : Instr} (h : decodePhase p = .ok i) : encode i = .phase p := by
  rcases Machine.decodePhase_cases h with
    ⟨rfl, rfl⟩ | ⟨rfl, rfl⟩ | ⟨rfl, rfl⟩ | ⟨rfl, rfl⟩ | ⟨rfl, rfl⟩ | ⟨rfl, rfl⟩ | ⟨rfl, rfl⟩ | ⟨rfl, rfl⟩ <;> rfl

/-- Settles O3: every instruction decodes from its encoding, and a code that decodes, in either place, is the encoding. -/
theorem encodingsAgree : Obligations.EncodingsAgree := by
  unfold Obligations.EncodingsAgree
  intro e i
  constructor
  · intro h
    cases e with
    | command w => exact (encode_of_decodeCommand h).symm
    | phase p => exact (encode_of_decodePhase h).symm
  · rintro rfl
    exact decode_encode i

/-! The fields of a command word (R90): OP is bits 3:0, ZERO is bits 31:4. -/

theorem opField_toNat (w : BitVec 32) : (w.extractLsb' 0 4).toNat = w.toNat % 16 := by
  simp [BitVec.extractLsb'_toNat]

theorem zeroField_eq_zero_iff (w : BitVec 32) : w.extractLsb' 4 28 = 0 ↔ w.toNat < 16 := by
  have hw := w.isLt
  rw [BitVec.ofNat_eq_ofNat, ← BitVec.toNat_inj, BitVec.extractLsb'_toNat, Nat.shiftRight_eq_div_pow,
    BitVec.toNat_zero]
  omega

theorem eq_iff_fields (w : BitVec 32) {k : Nat} (hk : k < 16) :
    w = BitVec.ofNat 32 k ↔ w.extractLsb' 4 28 = 0 ∧ (w.extractLsb' 0 4).toNat = k := by
  rw [zeroField_eq_zero_iff, opField_toNat, ← BitVec.toNat_inj, BitVec.toNat_ofNat]
  omega

theorem decodeCommand_eq_ok_iff {w : BitVec 32} {i : Instr} {k : Nat} (hk : k < 16)
    (hi : encode i = .command (BitVec.ofNat 32 k)) :
    decodeCommand w = .ok i ↔ w.extractLsb' 4 28 = 0 ∧ (w.extractLsb' 0 4).toNat = k :=
  calc decodeCommand w = .ok i
    _ ↔ Encoded.command w = encode i := encodingsAgree (.command w) i
    _ ↔ w = BitVec.ofNat 32 k := by rw [hi, Encoded.command.injEq]
    _ ↔ _ := eq_iff_fields w hk

theorem decodeCommand_eq_error_iff (w : BitVec 32) :
    decodeCommand w = .error .illegalCommand ↔ w.toNat = 0 ∨ 6 ≤ w.toNat := by
  unfold decodeCommand
  split_ifs with h1 h2 h3 h4 h5
  case neg =>
    simp only [← BitVec.toNat_inj, BitVec.toNat_ofNat] at h1 h2 h3 h4 h5
    simp only [true_iff]
    omega
  all_goals subst w; decide

/-- Settles O2: the five words by O3's equivalence, the illegal ones as the numbers that are none of 1 to 5. -/
theorem commandWordsExact : Obligations.CommandWordsExact := by
  unfold Obligations.CommandWordsExact
  intro w
  refine ⟨decodeCommand_eq_ok_iff (by decide) rfl, decodeCommand_eq_ok_iff (by decide) rfl,
    decodeCommand_eq_ok_iff (by decide) rfl, decodeCommand_eq_ok_iff (by decide) rfl,
    decodeCommand_eq_ok_iff (by decide) rfl, ?_⟩
  rw [decodeCommand_eq_error_iff, ne_eq, zeroField_eq_zero_iff, opField_toNat]
  omega

/-- Settles O1: the listed codes are closed facts of the two tables. -/
theorem encodingTableWords : Obligations.EncodingTableWords := by
  unfold Obligations.EncodingTableWords
  decide

end Sys2Proof
end

section
/-! The byte formats: the padded message (41_padding.md R140 to R142) and the digest (30_encoding.md R101). -/

namespace Sys2Proof.Machine

/-! The padded message. -/

theorem pad_length (m : Nat → Byte) (L : Nat) : (pad m L).length = plenOf L := by
  simp [pad]

/-- The terminator and the length field fit after the message (R141). -/
theorem add_nine_le_plenOf (L : Nat) : L + 9 ≤ plenOf L := by
  unfold plenOf
  omega

/-- Byte `i` of pad(m) is the one of the range `i` falls into (R142). -/
theorem pad_getElem? (m : Nat → Byte) {L i : Nat} (h : i < plenOf L) :
    (pad m L)[i]? = padByteOf m L (plenOf L) i := by
  rw [pad, List.getElem?_map, List.getElem?_range h, Option.map_some, padbyte, padByteOf_some h, Option.getD_some]

/-- The last eight bytes of pad(m) are the bit length, most significant byte first (R142). -/
theorem pad_drop_eq_be64bytes (m : Nat → Byte) (L : Nat) :
    (pad m L).drop (plenOf L - 8) = be64bytes (BitVec.ofNat 64 (8 * L)) := by
  have hL := add_nine_le_plenOf L
  apply List.ext_getElem?
  intro k
  rw [List.getElem?_drop]
  by_cases hk : k < 8
  · rw [pad_getElem? m (by omega), padByteOf, if_neg (by omega), if_neg (by omega), if_neg (by omega),
      Nat.add_sub_cancel_left]
  · rw [List.getElem?_eq_none (by rw [pad_length]; omega), List.getElem?_eq_none (by simpa [be64bytes] using hk)]

theorem bytesToNat_be64bytes (x : BitVec 64) : bytesToNat (be64bytes x) = x.toNat := by
  have hx := x.isLt
  simp only [be64bytes, bytesToNat, List.foldl_cons, List.foldl_nil, extract8_toNat]
  omega

/-- Settles O43: each clause is the range of R142 that its bytes fall into. -/
theorem paddedMessageFormat : Obligations.PaddedMessageFormat := by
  unfold Obligations.PaddedMessageFormat
  intro m L hlt
  have hL := add_nine_le_plenOf L
  refine ⟨pad_length m L, fun i hi => ?message, ?terminator, fun i hi hz => ?zeroFill, ?bitLength⟩
  case message => rw [pad_getElem? m (by omega), padByteOf, if_pos hi]
  case terminator => rw [pad_getElem? m (by omega), padByteOf, if_neg (by omega), if_pos rfl]
  case zeroFill => rw [pad_getElem? m (by omega), padByteOf, if_neg (by omega), if_neg (by omega), if_pos hz]
  case bitLength =>
    rw [pad_drop_eq_be64bytes, bytesToNat_be64bytes, BitVec.toNat_ofNat, Nat.mod_eq_of_lt (by omega)]

/-! The digest. -/

theorem wordBytes_get (x : Word) (m : Fin 4) : (wordBytes x)[m.val]? = some (x.extractLsb' (24 - 8 * m.val) 8) := by
  match m with
  | 0 | 1 | 2 | 3 => rfl

theorem digestBytes_get (s : Vector Word 8) (j : Fin 8) (m : Fin 4) :
    (digestBytes s)[4 * j.val + m.val]? = (wordBytes s[j])[m.val]? := by
  match j with
  | 0 | 1 | 2 | 3 | 4 | 5 | 6 | 7 =>
    match m with
    | 0 | 1 | 2 | 3 => rfl

/-- H[j] stands at bits 255-32j to 224-32j of the DIGEST view (R39). -/
theorem digestView_extract_word (s : Vector Word 8) (j : Fin 8) :
    (digestView s).extractLsb' (32 * (7 - j.val)) 32 = s[j] := by
  unfold digestView
  match j with
  | 0 | 1 | 2 | 3 | 4 | 5 | 6 | 7 =>
    simp (disch := decide) only [BitVec.extractLsb'_append_eq_of_le, BitVec.extractLsb'_append_eq_of_add_le]
    exact BitVec.extractLsb'_eq_self

/-- Settles O46: a digest byte and a byte of the view are each a byte of the word H[j] they stand in. -/
theorem digestBytesInOrder : Obligations.DigestBytesInOrder := by
  unfold Obligations.DigestBytesInOrder
  intro s j m
  refine ⟨by rw [digestBytes_get, wordBytes_get], ?_⟩
  rw [← digestView_extract_word s j]
  apply BitVec.eq_of_getLsbD_eq
  intro i hi
  have e : 8 * (31 - (4 * j.val + m.val)) + i = 32 * (7 - j.val) + (24 - 8 * m.val + i) := by omega
  have hm : 24 - 8 * m.val + i < 32 := by omega
  simp only [BitVec.getLsbD_extractLsb', e, hm, decide_true, Bool.true_and]

end Sys2Proof.Machine
end

section
/-! The combinational functions (40_primitives.md R121 to R133), bit by bit. -/

namespace Sys2Proof.Machine

/-! Rotation and shift. -/

theorem rotr_eq_rotateRight (x : Word) {n : Nat} (hn : 1 ≤ n ∧ n ≤ 31) : rotr x n hn = x.rotateRight n := by
  rw [rotr, BitVec.rotateRight_def, Nat.mod_eq_of_lt (by omega)]

theorem rotr_getLsbD (x : Word) {n i : Nat} (hn : 1 ≤ n ∧ n ≤ 31) (hi : i < 32) :
    (rotr x n hn).getLsbD i = x.getLsbD ((i + n) % 32) := by
  have hmod : n % 32 = n := Nat.mod_eq_of_lt (by omega)
  rw [rotr_eq_rotateRight, BitVec.getLsbD_rotateRight, hmod]
  by_cases hwrap : i < 32 - n
  · have e : (i + n) % 32 = n + i := by omega
    simp only [hwrap, decide_true, cond_true, e]
  · have e : (i + n) % 32 = i - (32 - n) := by omega
    simp only [hwrap, hi, decide_true, decide_false, cond_false, Bool.true_and, e]

/-- The bits above bit 31, which the shift brings in, are 0. -/
theorem shr_getLsbD (x : Word) {n : Nat} (hn : n = 3 ∨ n = 10) (i : Nat) :
    (shr x n hn).getLsbD i = (decide (i + n ≤ 31) && x.getLsbD (i + n)) := by
  rw [shr, BitVec.getLsbD_ushiftRight, Nat.add_comm n i]
  by_cases hin : i + n ≤ 31
  · simp only [hin, decide_true, Bool.true_and]
  · simp only [hin, decide_false, Bool.false_and, BitVec.getLsbD_of_ge x (i + n) (by omega)]

/-- Settles O38: a rotated bit comes from the low part or has wrapped around; a shifted one is in range or 0. -/
theorem rotateAndShiftBits : Obligations.RotateAndShiftBits := by
  unfold Obligations.RotateAndShiftBits
  exact ⟨fun x _ hn _ hi => rotr_getLsbD x hn hi, fun x _ hn i _ => shr_getLsbD x hn i⟩

/-! Ch and Maj. -/

theorem ch_getLsbD (x y z : Word) {i : Nat} (hi : i < 32) :
    (ch x y z).getLsbD i = if x.getLsbD i then y.getLsbD i else z.getLsbD i := by
  simp only [ch, BitVec.getLsbD_xor, BitVec.getLsbD_and, BitVec.getLsbD_not, hi, decide_true, Bool.true_and]
  cases x.getLsbD i <;> simp

theorem maj_getLsbD_iff (x y z : Word) (i : Nat) :
    (maj x y z).getLsbD i = true ↔ 2 ≤ (x.getLsbD i).toNat + (y.getLsbD i).toNat + (z.getLsbD i).toNat := by
  have majority : ∀ a b c : Bool, (a && b ^^ a && c ^^ b && c) = true ↔ 2 ≤ a.toNat + b.toNat + c.toNat := by decide
  simp only [maj, BitVec.getLsbD_xor, BitVec.getLsbD_and, majority]

/-- The two terms of Ch never both have a 1 in the same bit (R128). -/
theorem ch_eq_or (x y z : Word) : ch x y z = (x &&& y) ||| (~~~x &&& z) := by
  apply BitVec.eq_of_getLsbD_eq
  intro i hi
  rw [ch_getLsbD x y z hi]
  simp only [BitVec.getLsbD_or, BitVec.getLsbD_and, BitVec.getLsbD_not, hi, decide_true, Bool.true_and]
  cases x.getLsbD i <;> simp

/-- Settles O39: each clause holds for the values the three bits can have. -/
theorem chooseAndMajorityBits : Obligations.ChooseAndMajorityBits := by
  unfold Obligations.ChooseAndMajorityBits
  exact fun x y z i hi => ⟨ch_getLsbD x y z hi, maj_getLsbD_iff x y z i, ch_eq_or x y z⟩

/-! The sigma functions. -/

/-- Settles O40: a bit of an exclusive-or is that of the bits, which are those of `rotr_getLsbD` and `shr_getLsbD`. -/
theorem sigmaBits : Obligations.SigmaBits := by
  unfold Obligations.SigmaBits
  intro x i hi
  refine ⟨?ssig0, ?ssig1, ?bsig0, ?bsig1⟩
  case ssig0 => simp only [ssig0, BitVec.getLsbD_xor, rotr_getLsbD x _ hi, shr_getLsbD]
  case ssig1 => simp only [ssig1, BitVec.getLsbD_xor, rotr_getLsbD x _ hi, shr_getLsbD]
  case bsig0 => simp only [bsig0, BitVec.getLsbD_xor, rotr_getLsbD x _ hi]
  case bsig1 => simp only [bsig1, BitVec.getLsbD_xor, rotr_getLsbD x _ hi]

/-! Words and their bytes. -/

/-- Settles O41: the two inverse laws and the number value of `be32`, from the laws of byte order. -/
theorem wordBytesInverse : Obligations.WordBytesInverse := by
  unfold Obligations.WordBytesInverse
  exact ⟨fun x => ⟨_, _, _, _, rfl, be32_wordBytes x⟩,
    fun b0 b1 b2 b3 => ⟨wordBytes_be32 b0 b1 b2 b3, be32_toNat b0 b1 b2 b3⟩⟩

end Sys2Proof.Machine
end

section
/-! The padding engine (41_padding.md): the padded lengths (R141), pad as an injection (R143), PAD (R144) and U_PADBYTE
(R145). -/

namespace Sys2Proof.Machine

/-! The padded length (R141). -/

theorem blocksOf_eq (L : Nat) : blocksOf L = (L + 72) / 64 := Nat.mul_div_cancel_left _ (by decide)

theorem zeroFillOf_eq (L : Nat) : zeroFillOf L = 63 - (L + 8) % 64 := by
  unfold zeroFillOf plenOf
  omega

/-- Settles O42: plen(L) is L + 9 rounded up to a multiple of 64, and z(L) is what the rounding adds. -/
theorem paddedLengths : Obligations.PaddedLengths := by
  unfold Obligations.PaddedLengths
  intro L
  have hplen : plenOf L = 64 * ((L + 72) / 64) := rfl
  rw [blocksOf_eq, zeroFillOf_eq, hplen]
  refine ⟨Nat.mul_mod_right 64 _, hplen ▸ add_nine_le_plenOf L, ?least, Nat.mul_comm _ _, rfl, ?parts,
    Nat.sub_le 63 _, ?noFill, ?fillMod, ?oneBlock, ?twoBlocks⟩
  all_goals omega

/-! pad as an injection (R143). -/

/-- Settles O44: by the format of pad(m) (O43) its last eight bytes tell the length, and its first L bytes are then the
message. -/
theorem padIsInjective : Obligations.PadIsInjective := by
  unfold Obligations.PadIsInjective
  intro m m' L L' hL hL' heq
  obtain ⟨hlen, hmsg, _, _, hbits⟩ := paddedMessageFormat m L hL
  obtain ⟨hlen', hmsg', _, _, hbits'⟩ := paddedMessageFormat m' L' hL'
  have hplen : plenOf L = plenOf L' := by rw [← hlen, heq, hlen']
  have hLL : L = L' := by
    rw [heq, hplen, hbits'] at hbits
    omega
  refine ⟨hLL, fun i hi => ?_⟩
  have hbyte := hmsg i hi
  rw [heq, hmsg' i (hLL ▸ hi)] at hbyte
  exact (Option.some.inj hbyte).symm

/-! The acceptance of PAD and HASH (R144; 44_digest_engine.md R207). -/

/-- The state after the acceptance writes of PAD. -/
def State.padAccepted (s : State) : State :=
  { s with
    plen := BitVec.ofNat 64 (plenOf s.mlen.toNat), pbv := false, pb := [], pidx := 0, cur := Op.pad,
    phase := Phase.padbyte, busy := true, done := false }

theorem execPad_accepted {s : State} (hi : s.idle = true) (hc : s.checkLength = none) :
    exec .pad s = .next s.padAccepted :=
  congrArg Host.Outcome.next (State.issue_accepted _ hi hc)

theorem execHash_accepted {s : State} (hi : s.idle = true) (hc : s.checkLength = none) :
    exec .hash s = .next ((s.openBuffer.accept Op.hash).goto Phase.init) :=
  congrArg Host.Outcome.next (State.issue_accepted _ hi hc)

/-- Settles O17: the accepted states, and plen(L) fits PLEN. -/
theorem padAndHashAccepted : Obligations.PadAndHashAccepted := by
  unfold Obligations.PadAndHashAccepted
  intro s hi hl hm hb
  have hc : s.checkLength = none := s.checkLength_none.2 ⟨hl, hm, hb⟩
  obtain ⟨hopen, _⟩ := State.openBuffer_checked hc
  exact ⟨⟨_, execPad_accepted hi hc, hopen.padded, fun _ => rfl, rfl⟩,
    ⟨_, execHash_accepted hi hc, hopen.padded, fun _ => rfl, rfl⟩⟩

/-! One step of U_PADBYTE (R145). -/

/-- A step that is not the last goes on to the next byte. -/
theorem execUPadbyte_next {s : State} (h : s.pidx.toNat < s.plen.toNat - 1) :
    exec .uPadbyte s = .next { s with
      pb := s.pb.write s.pidx.toNat s.padOperand, fresh := s.fresh + 1, pidx := BitVec.ofNat 64 (s.pidx.toNat + 1) } :=
  congrArg Host.Outcome.next (if_pos h)

/-- The last step of a command other than HASH completes it. -/
theorem execUPadbyte_last {s : State} (h : ¬ s.pidx.toNat < s.plen.toNat - 1) (hc : s.cur ≠ Op.hash) :
    exec .uPadbyte s = .next { s with
      pb := s.pb.write s.pidx.toNat s.padOperand, fresh := s.fresh + 1, pbv := true, busy := false, done := true,
      phase := Phase.idle } :=
  congrArg Host.Outcome.next ((if_neg h).trans (if_neg hc))

/-- The last step within HASH goes on to the first block. -/
theorem execUPadbyte_last_hash {s : State} (h : ¬ s.pidx.toNat < s.plen.toNat - 1) (hc : s.cur = Op.hash) :
    exec .uPadbyte s = .next { s with
      pb := s.pb.write s.pidx.toNat s.padOperand, fresh := s.fresh + 1, pbv := true, phase := Phase.loadw, blk := 0,
      t := 0 } :=
  congrArg Host.Outcome.next ((if_neg h).trans (if_pos hc))

/-- Everything U_PADBYTE can do (R145). -/
theorem execUPadbyte_cases (s : State) :
    Answers (exec .uPadbyte s) fun t => t.pb = s.pb.write s.pidx.toNat s.padOperand ∧
      t = { s with pb := t.pb, pidx := t.pidx, pbv := t.pbv, blk := t.blk, t := t.t, phase := t.phase, busy := t.busy,
                   done := t.done, fresh := t.fresh } := by
  by_cases h : s.pidx.toNat < s.plen.toNat - 1
  · exact ⟨_, execUPadbyte_next h, rfl, rfl⟩
  by_cases hc : s.cur = Op.hash
  · exact ⟨_, execUPadbyte_last_hash h hc, rfl, rfl⟩
  · exact ⟨_, execUPadbyte_last h hc, rfl, rfl⟩

/-- Settles O30: U_PADBYTE stores one byte of PB, and its frame leaves MSG alone. -/
theorem padbyteFrame : Obligations.PadbyteFrame := by
  unfold Obligations.PadbyteFrame
  intro s t ht
  obtain ⟨hpb, hframe⟩ := (execUPadbyte_cases s).of_next ht
  refine ⟨hframe, fun a ha => ?_, fun a => ?_⟩
  · rw [hpb, Memory.read_write_other _ _ ha]
  · rw [hframe]; rfl

/-- The byte U_PADBYTE writes, by the range PIDX falls into. -/
theorem State.padOperand_eq {s : State} (h : s.pidx.toNat < s.plen.toNat) :
    s.padOperand = if s.pidx.toNat < s.mlen.toNat then s.msgByte s.pidx.toNat
      else if s.pidx.toNat = s.mlen.toNat then 0x80
      else if s.pidx.toNat < s.plen.toNat - 8 then 0x00
      else (BitVec.ofNat 64 (8 * s.mlen.toNat)).extractLsb' (56 - 8 * (s.pidx.toNat - (s.plen.toNat - 8))) 8 := by
  rw [State.padOperand, padByteOf_some h, Option.getD_some]

/-- PIDX + 1 does not wrap before the last byte. -/
theorem toNat_pidx_succ {s : State} (h : s.pidx.toNat < s.plen.toNat - 1) :
    (BitVec.ofNat 64 (s.pidx.toNat + 1)).toNat = s.pidx.toNat + 1 := by
  have hP := s.plen.isLt
  rw [BitVec.toNat_ofNat, Nat.mod_eq_of_lt (by omega)]

/-- Settles O21: the byte stored is that of PIDX's range in all three cases of the step. -/
theorem uPadbyteWritesOneByte : Obligations.UPadbyteWritesOneByte := by
  unfold Obligations.UPadbyteWritesOneByte
  intro s hi i L P
  have byte : if i < L then s.padOperand = s.msgByte i
      else if i = L then s.padOperand = 0x80
      else if i < P - 8 then s.padOperand = 0x00
      else L < 2 ^ 61 → 8 ≤ P →
        s.padOperand = (BitVec.ofNat 64 (8 * L)).extractLsb' (56 - 8 * (i - (P - 8))) 8 := by
    rw [State.padOperand_eq hi]
    split_ifs
    · rfl
    · rfl
    · rfl
    · exact fun _ _ => rfl
  have stored := Memory.read_write_self s.pb i s.padOperand
  by_cases h : i < P - 1
  · exact ⟨_, execUPadbyte_next h, rfl, ⟨_, stored, byte⟩, fun _ => ⟨toNat_pidx_succ h, rfl, rfl, rfl, rfl⟩,
      fun hlast => absurd h (by omega)⟩
  by_cases hc : s.cur = Op.hash
  · exact ⟨_, execUPadbyte_last_hash h hc, rfl, ⟨_, stored, byte⟩, fun hlt => absurd hlt h,
      fun _ => ⟨rfl, rfl, fun _ => ⟨rfl, rfl, rfl, rfl, rfl⟩, fun hne => absurd hc hne⟩⟩
  · exact ⟨_, execUPadbyte_last h hc, rfl, ⟨_, stored, byte⟩, fun hlt => absurd hlt h,
      fun _ => ⟨rfl, rfl, fun heq => absurd heq hc, fun _ => ⟨rfl, rfl, rfl⟩⟩⟩

/-! Steps and runs. -/

/-- A command word written to CMD (44_digest_engine.md R210). -/
theorem step_command {s : State} {c : BitVec 32} {rest : List HostEvent} {i : Instr}
    (hh : s.host = .wr 0x00 (c.setWidth 64) :: rest) (hd : decodeCommand c = .ok i) :
    step s = exec i (s.setHost rest) := by
  have hc : (c.setWidth 64).setWidth 32 = c := by
    rw [BitVec.setWidth_setWidth_of_le c (by decide), BitVec.setWidth_eq]
  rw [step_cons hh]
  show (s.setHost rest).writeCmd ((c.setWidth 64).setWidth 32) = _
  rw [hc, State.writeCmd, hd]

/-- A micro-operation, with the HOST's list empty (44_digest_engine.md R213). -/
theorem step_microOp {s : State} {i : Instr} (hh : s.host = []) (hb : s.busy = true)
    (hp : decodePhase s.phase = .ok i) : step s = exec i s :=
  (step_nil hh).trans (State.engineTurn_op hb hp)

/-- A run with one step more at its end. -/
theorem run_snoc {s t u : State} {n : Nat} (h : run n s = .next t) (hs : step t = .next u) :
    run (n + 1) s = .next u := by
  rw [run_add n 1 h, run_succ 0 hs, run_zero]

/-! The padding as a whole (R144): what PB holds after `k` steps of U_PADBYTE. -/

/-- `t` is `s` after `k` steps of U_PADBYTE, none of them the last: PB holds the first `k` bytes of pad(m). -/
structure State.PaddedTo (s : State) (k : Nat) (t : State) : Prop where
  frame : t = { s with pb := t.pb, pidx := t.pidx, fresh := t.fresh }
  pidx : t.pidx.toNat = k
  content : ∀ i, t.pb.read i = ((pad s.msgByte s.mlen.toNat).take k)[i]?

theorem State.PaddedTo.start {s : State} (hi : s.pidx = 0) (hpb : s.pb = []) : s.PaddedTo 0 s :=
  ⟨rfl, by rw [hi]; rfl, fun i => by rw [hpb]; rfl⟩

section
variable {s t : State} {k : Nat} (hl : s.LengthsChecked) (h : s.PaddedTo k t)
include hl h

theorem State.PaddedTo.plen : t.plen.toNat = plenOf s.mlen.toNat := by
  rw [h.frame]
  exact hl.padded

/-- The byte U_PADBYTE then writes is byte `k` of pad(m), so PB holds one byte of it more. -/
theorem State.PaddedTo.content_succ (hk : k < plenOf s.mlen.toNat) (i : Nat) :
    (t.pb.write t.pidx.toNat t.padOperand).read i = ((pad s.msgByte s.mlen.toNat).take (k + 1))[i]? := by
  have operand : some t.padOperand = (pad s.msgByte s.mlen.toNat)[k]? := by
    have same : padByteOf t.msgByte t.mlen.toNat = padByteOf s.msgByte s.mlen.toNat := by rw [h.frame]; rfl
    rw [pad_getElem? _ hk, State.padOperand, same, h.plen hl, h.pidx, padByteOf_some hk, Option.getD_some]
  rw [Memory.read_write, h.pidx, operand, h.content, List.getElem?_take, List.getElem?_take]
  by_cases hik : i = k
  · rw [if_pos hik, if_pos (by omega), hik]
  · simp only [Nat.lt_succ_iff_lt_or_eq, hik, or_false, if_false]

/-- A step that is not the last writes the next byte of pad(m). -/
theorem State.PaddedTo.next (hk : k + 1 < plenOf s.mlen.toNat) :
    Answers (exec .uPadbyte t) (s.PaddedTo (k + 1)) := by
  have hlt : t.pidx.toNat < t.plen.toNat - 1 := by
    rw [h.pidx, h.plen hl]
    omega
  refine ⟨_, execUPadbyte_next hlt, ?_, ?_, h.content_succ hl (by omega)⟩
  · rw [h.frame]
  · rw [← h.pidx]
    exact toNat_pidx_succ hlt

/-- The last step of PAD writes the last byte of pad(m) and completes the command. -/
theorem State.PaddedTo.last (hk : k + 1 = plenOf s.mlen.toNat) (hc : s.cur ≠ Op.hash) :
    Answers (exec .uPadbyte t) fun u =>
      u = { s with pb := u.pb, pidx := u.pidx, fresh := u.fresh, pbv := true, busy := false, done := true,
                   phase := Phase.idle } ∧
      ∀ i, u.pb.read i = (pad s.msgByte s.mlen.toNat)[i]? := by
  have hlast : ¬ t.pidx.toNat < t.plen.toNat - 1 := by
    rw [h.pidx, h.plen hl]
    omega
  have hcur : t.cur = s.cur := by rw [h.frame]
  refine ⟨_, execUPadbyte_last hlast (hcur ▸ hc), ?_, fun i => ?_⟩
  · rw [h.frame]
  · rw [h.content_succ hl (by omega), hk, ← pad_length s.msgByte, List.take_length]

end

section
variable {s : State} (hh : s.host = []) (hb : s.busy = true) (hp : s.phase = Phase.padbyte)
include hh hb hp

/-- Every step of the phase is a U_PADBYTE. -/
theorem State.PaddedTo.step_eq {t : State} {k : Nat} (h : s.PaddedTo k t) : step t = exec .uPadbyte t := by
  apply step_microOp <;> rw [h.frame]
  · exact hh
  · exact hb
  · rw [hp]; rfl

/-- The PADBYTE phase left to the ENGINE, up to the last byte. -/
theorem run_padbyte (hl : s.LengthsChecked) (hi : s.pidx = 0) (hpb : s.pb = []) (k : Nat)
    (hk : k < plenOf s.mlen.toNat) : Answers (run k s) (s.PaddedTo k) := by
  induction k with
  | zero => exact ⟨s, rfl, .start hi hpb⟩
  | succ k ih =>
    obtain ⟨t, ht, hpad⟩ := ih (by omega)
    obtain ⟨u, hu, hnext⟩ := hpad.next hl hk
    exact ⟨u, run_snoc ht ((hpad.step_eq hh hb hp).trans hu), hnext⟩

/-- The whole PADBYTE phase of PAD, left to the ENGINE. -/
theorem run_pad (hl : s.LengthsChecked) (hi : s.pidx = 0) (hpb : s.pb = []) (hc : s.cur ≠ Op.hash) :
    Answers (run (plenOf s.mlen.toNat) s) fun u =>
      u = { s with pb := u.pb, pidx := u.pidx, fresh := u.fresh, pbv := true, busy := false, done := true,
                   phase := Phase.idle } ∧
      ∀ i, u.pb.read i = (pad s.msgByte s.mlen.toNat)[i]? := by
  obtain ⟨n, hn⟩ := Nat.exists_eq_add_of_le' (Nat.le_of_add_left_le (add_nine_le_plenOf s.mlen.toNat))
  obtain ⟨t, ht, hpad⟩ := run_padbyte hh hb hp hl hi hpb (n + 8) (by omega)
  obtain ⟨u, hu, hend⟩ := hpad.last hl (by omega) hc
  exact ⟨u, hn ▸ run_snoc ht ((hpad.step_eq hh hb hp).trans hu), hend⟩

end

theorem State.padAccepted_checked {s : State} (hc : s.checkLength = none) : s.padAccepted.LengthsChecked := by
  obtain ⟨hl, _⟩ := State.openBuffer_checked hc
  exact ⟨hl.length, hl.message, hl.buffer, hl.padded⟩

/-- PAD from its acceptance to its completion, left to the ENGINE. -/
theorem run_padAccepted {s : State} (hh : s.host = []) (hc : s.checkLength = none) :
    Answers (run (plenOf s.mlen.toNat) s.padAccepted) fun t =>
      t = { s with pb := t.pb, plen := t.plen, pbv := true, done := true, busy := false, phase := Phase.idle,
                   cur := Op.pad, pidx := t.pidx, fresh := t.fresh } ∧
      t.plen.toNat = plenOf s.mlen.toNat ∧ ∀ i, t.pb.read i = (pad s.msgByte s.mlen.toNat)[i]? := by
  have hl := State.padAccepted_checked hc
  obtain ⟨t, ht, hframe, hpb⟩ := run_pad (s := s.padAccepted) hh rfl rfl hl rfl rfl (by decide : Op.pad ≠ Op.hash)
  refine ⟨t, ht, ?_, ?_, hpb⟩
  · rw [hframe]
    rfl
  · rw [hframe]
    exact hl.padded

/-- Settles O53: the acceptance (O17), then the PADBYTE phase by induction on the number of bytes, and its last step. -/
theorem padComputesPadding : Obligations.PadComputesPadding := by
  unfold Obligations.PadComputesPadding
  intro s hi hc hh L
  have haccept : step s = .next (s.setHost []).padAccepted :=
    (step_command (c := 2#32) hh rfl).trans (execPad_accepted (s := s.setHost []) hi hc)
  obtain ⟨t, ht, hframe, hplen, hpb⟩ := run_padAccepted (s := s.setHost []) rfl hc
  refine ⟨t, ?_, hframe, hplen, fun i _ => hpb i, fun i hge => ?_⟩
  · rw [Nat.add_comm, run_succ _ haccept]
    exact ht
  · rw [hpb]
    exact List.getElem?_eq_none ((pad_length _ _).trans_le hge)

end Sys2Proof.Machine
end

section
/-! The block scheduler (42_schedule.md): the words of the message schedule (R161, R162), SCHEDULE (R163), U_LOADW (R164)
and U_EXPAND (R165). -/

namespace Sys2Proof.Machine

/-! The words of the message schedule (R161, R162). -/

theorem schedule_loaded (x : Nat → Byte) {t : Nat} (ht : t ≤ 15) :
    schedule x t = be32 (x (4 * t)) (x (4 * t + 1)) (x (4 * t + 2)) (x (4 * t + 3)) := by
  interval_cases t <;> rfl

theorem schedule_expanded (x : Nat → Byte) {t : Nat} (ht : 16 ≤ t) :
    schedule x t =
      schedTerm (schedule x (t - 2)) (schedule x (t - 7)) (schedule x (t - 15)) (schedule x (t - 16)) := by
  obtain ⟨k, rfl⟩ := Nat.exists_eq_add_of_le' ht
  rfl

/-- Settles O45: the equations of the two ranges. -/
theorem scheduleWords : Obligations.ScheduleWords := by
  unfold Obligations.ScheduleWords
  exact fun x => ⟨fun _ ht => schedule_loaded x ht, fun _ ht _ => schedule_expanded x ht⟩

/-! The acceptance of SCHEDULE (R163). -/

/-- The state after the acceptance writes of SCHEDULE. -/
def State.scheduleAccepted (s : State) : State :=
  { s with
    blk := s.arg.setWidth 56, t := 0, cur := Op.schedule, phase := Phase.loadw, busy := true, done := false }

theorem execSchedule_accepted {s : State} (hi : s.idle = true) (hc : s.checkBlock = none) :
    exec .schedule s = .next s.scheduleAccepted :=
  congrArg Host.Outcome.next (State.issue_accepted _ hi hc)

/-- The number of a block of a Padded Buffer fits BLK (10_state.md R36, R38). -/
theorem toNat_blk_of_arg {arg : BitVec 64} {P : Nat} (ha : arg.toNat < P / 64) (hP : P ≤ 2 ^ 61 + 64) :
    (arg.setWidth 56).toNat = arg.toNat := by
  rw [BitVec.toNat_setWidth, Nat.mod_eq_of_lt (by omega)]

/-- Settles O18: the accepted state, whose BLK holds all of ARG. -/
theorem scheduleAccepted : Obligations.ScheduleAccepted := by
  unfold Obligations.ScheduleAccepted
  intro s hi hv ha hP
  exact ⟨_, execSchedule_accepted hi (s.checkBlock_none.2 ⟨hv, ha⟩), toNat_blk_of_arg ha hP, rfl⟩

/-! One step of U_LOADW (R164). -/

/-- A step that is not the last goes on to the next word. -/
theorem execULoadw_next {s : State} (h : s.t.toNat ≠ 15) :
    exec .uLoadw s = .next { s with
      w := s.w.set s.t.toNat (some (s.pbWord s.wordAddr)) s.t.isLt, fresh := s.fresh + 1, t := s.t + 1 } :=
  congrArg Host.Outcome.next (if_neg fun e => h (congrArg BitVec.toNat e))

/-- The last step goes on to the derived words. -/
theorem execULoadw_last {s : State} (h : s.t.toNat = 15) :
    exec .uLoadw s = .next { s with
      w := s.w.set s.t.toNat (some (s.pbWord s.wordAddr)) s.t.isLt, fresh := s.fresh + 1, t := s.t + 1,
      phase := Phase.expand } :=
  congrArg Host.Outcome.next (if_pos (BitVec.eq_of_toNat_eq h))

/-- Everything U_LOADW can do. -/
theorem execULoadw_cases (s : State) :
    Answers (exec .uLoadw s) fun t => t.w = s.w.set s.t.toNat (some (s.pbWord s.wordAddr)) s.t.isLt ∧
      t = { s with w := t.w, t := t.t, phase := t.phase, fresh := t.fresh } := by
  by_cases h : s.t.toNat = 15
  · exact ⟨_, execULoadw_last h, rfl, rfl⟩
  · exact ⟨_, execULoadw_next h, rfl, rfl⟩

/-- Settles O22: in both cases of the step the word stored is be32 of the four bytes, and `wordBytes` takes them out of it
again. -/
theorem uLoadwLoadsBigEndianWord : Obligations.ULoadwLoadsBigEndianWord := by
  unfold Obligations.ULoadwLoadsBigEndianWord
  intro s b0 b1 b2 b3 ht a h0 h1 h2 h3
  have haddr : a % 4 = 0 ∧ (s.blk.toNat < s.plen.toNat / 64 → a + 3 < s.plen.toNat) := by omega
  have stored : (s.w.set s.t.toNat (some (s.pbWord s.wordAddr)) s.t.isLt)[s.t.toNat]'s.t.isLt =
      some (be32 b0 b1 b2 b3) := by
    rw [Vector.getElem_set_self]
    exact congrArg some (State.pbWord_of_some h0 h1 h2 h3)
  obtain ⟨e0, e1, e2, e3⟩ : _ ∧ _ ∧ _ ∧ _ := by
    simpa only [wordBytes, List.cons.injEq, and_true] using wordBytes_be32 b0 b1 b2 b3
  have hnext := toNat_t_succ (t := s.t) (by omega)
  by_cases h : s.t.toNat = 15
  · exact ⟨_, execULoadw_last h, rfl, haddr, ⟨_, stored, e0, e1, e2, e3⟩, hnext, fun _ => rfl,
      fun hlt => absurd hlt (by omega)⟩
  · exact ⟨_, execULoadw_next h, rfl, haddr, ⟨_, stored, e0, e1, e2, e3⟩, hnext,
      fun h15 => absurd h15 h, fun _ => rfl⟩

/-! One step of U_EXPAND (R165). -/

/-- A step that is not the last goes on to the next word. -/
theorem execUExpand_next {s : State} (h : s.t.toNat < 63) :
    exec .uExpand s = .next { s with
      w := s.w.set s.t.toNat (some s.expandOperand) s.t.isLt, fresh := s.fresh + 1, t := s.t + 1 } :=
  congrArg Host.Outcome.next (if_pos h)

/-- The last step of a command other than HASH completes it. -/
theorem execUExpand_last {s : State} (h : ¬ s.t.toNat < 63) (hc : s.cur ≠ Op.hash) :
    exec .uExpand s = .next { s with
      w := s.w.set s.t.toNat (some s.expandOperand) s.t.isLt, fresh := s.fresh + 1, busy := false, done := true,
      phase := Phase.idle } :=
  congrArg Host.Outcome.next ((if_neg h).trans (if_neg hc))

/-- The last step within HASH goes on to the compression. -/
theorem execUExpand_last_hash {s : State} (h : ¬ s.t.toNat < 63) (hc : s.cur = Op.hash) :
    exec .uExpand s = .next { s with
      w := s.w.set s.t.toNat (some s.expandOperand) s.t.isLt, fresh := s.fresh + 1, phase := Phase.loadv } :=
  congrArg Host.Outcome.next ((if_neg h).trans (if_pos hc))

/-- Everything U_EXPAND can do. -/
theorem execUExpand_cases (s : State) :
    Answers (exec .uExpand s) fun t => t.w = s.w.set s.t.toNat (some s.expandOperand) s.t.isLt ∧
      t = { s with w := t.w, t := t.t, phase := t.phase, busy := t.busy, done := t.done, fresh := t.fresh } := by
  by_cases h : s.t.toNat < 63
  · exact ⟨_, execUExpand_next h, rfl, rfl⟩
  by_cases hc : s.cur = Op.hash
  · exact ⟨_, execUExpand_last_hash h hc, rfl, rfl⟩
  · exact ⟨_, execUExpand_last h hc, rfl, rfl⟩

/-- W[T - d], read as an operand. -/
theorem State.readW_behind {s : State} {d : Nat} {x : Word} (hd : d ≤ s.t.toNat)
    (h : s.w[s.t.toNat - d]'(Nat.lt_of_le_of_lt (Nat.sub_le _ _) s.t.isLt) = some x) :
    s.readW (s.t - BitVec.ofNat 6 d) = x := by
  have hd64 : d % 2 ^ 6 = d := Nat.mod_eq_of_lt (Nat.lt_of_le_of_lt hd s.t.isLt)
  have behind : (s.t - BitVec.ofNat 6 d).toNat = s.t.toNat - d := by
    rw [BitVec.toNat_sub_of_le, BitVec.toNat_ofNat, hd64]
    rw [BitVec.le_def, BitVec.toNat_ofNat, hd64]
    exact hd
  apply State.readW_of_some
  simpa only [behind] using h

/-- The word U_EXPAND derives, from four defined registers. -/
theorem State.expandOperand_of_some {s : State} {w2 w7 w15 w16 : Word} (ht : 16 ≤ s.t.toNat)
    (h2 : s.w[s.t.toNat - 2]'(Nat.lt_of_le_of_lt (Nat.sub_le _ _) s.t.isLt) = some w2)
    (h7 : s.w[s.t.toNat - 7]'(Nat.lt_of_le_of_lt (Nat.sub_le _ _) s.t.isLt) = some w7)
    (h15 : s.w[s.t.toNat - 15]'(Nat.lt_of_le_of_lt (Nat.sub_le _ _) s.t.isLt) = some w15)
    (h16 : s.w[s.t.toNat - 16]'(Nat.lt_of_le_of_lt (Nat.sub_le _ _) s.t.isLt) = some w16) :
    s.expandOperand = schedTerm w2 w7 w15 w16 := by
  have r2 : s.readW (s.t - 2) = w2 := State.readW_behind (d := 2) (by omega) h2
  have r7 : s.readW (s.t - 7) = w7 := State.readW_behind (d := 7) (by omega) h7
  have r15 : s.readW (s.t - 15) = w15 := State.readW_behind (d := 15) (by omega) h15
  have r16 : s.readW (s.t - 16) = w16 := State.readW_behind ht h16
  rw [State.expandOperand, if_pos ht, r2, r7, r15, r16]

/-- Settles O23: in all three cases of the step the word stored is the sum of the recurrence, and after the last one no
register of W is undefined. -/
theorem uExpandDerivesWord : Obligations.UExpandDerivesWord := by
  unfold Obligations.UExpandDerivesWord
  intro s w2 w7 w15 w16 ht h2 h7 h15 h16
  have stored : (s.w.set s.t.toNat (some s.expandOperand) s.t.isLt)[s.t.toNat]'s.t.isLt =
      some (ssig1 w2 + w7 + ssig0 w15 + w16) := by
    rw [Vector.getElem_set_self, State.expandOperand_of_some ht h2 h7 h15 h16]
    rfl
  have defined (hlast : s.t.toNat = 63) (hw : definedBelow s.w 63) :
      allDefined (s.w.set s.t.toNat (some s.expandOperand) s.t.isLt) = true := by
    have hset := definedBelow_set (hlast ▸ hw) s.t.isLt s.expandOperand
    exact (allDefined_iff _).2 fun i hi => hset i hi (by omega)
  by_cases h : s.t.toNat < 63
  · exact ⟨_, execUExpand_next h, rfl, defined, stored, fun _ => ⟨toNat_t_succ h, rfl, rfl, rfl⟩,
      fun hlast => absurd h (by omega)⟩
  by_cases hc : s.cur = Op.hash
  · exact ⟨_, execUExpand_last_hash h hc, rfl, defined, stored, fun hlt => absurd hlt h,
      fun _ => ⟨rfl, fun _ => ⟨rfl, rfl, rfl⟩, fun hne => absurd hc hne⟩⟩
  · exact ⟨_, execUExpand_last h hc, rfl, defined, stored, fun hlt => absurd hlt h,
      fun _ => ⟨rfl, fun heq => absurd heq hc, fun _ => ⟨rfl, rfl, rfl⟩⟩⟩

/-- A step that stores W[T] leaves the other registers of W as they are. -/
theorem other_words_of_set {s t : State} {y : Word} (hw : t.w = s.w.set s.t.toNat (some y) s.t.isLt) (i : Fin 64)
    (hi : i.val ≠ s.t.toNat) : t.w[i] = s.w[i] := by
  rw [hw, reg_set_get, if_neg hi]

/-- Settles O29: both store one register of W and leave both memories alone. -/
theorem scheduleMicroOpsFrame : Obligations.ScheduleMicroOpsFrame := by
  unfold Obligations.ScheduleMicroOpsFrame
  intro s
  constructor
  case left =>
    intro t ht
    obtain ⟨hw, hframe⟩ := (execULoadw_cases s).of_next ht
    exact ⟨hframe, other_words_of_set hw, fun a => by rw [hframe]; exact ⟨rfl, rfl⟩⟩
  case right =>
    intro t ht
    obtain ⟨hw, hframe⟩ := (execUExpand_cases s).of_next ht
    exact ⟨hframe, other_words_of_set hw, fun a => by rw [hframe]; exact ⟨rfl, rfl⟩⟩

/-! The schedule of a block as a whole (R163): what W holds after `k` steps of U_LOADW and U_EXPAND. -/

/-- Block BLK of the Padded Buffer is `x`. -/
def State.BlockIs (s : State) (x : Nat → Byte) : Prop :=
  ∀ j, j < 64 → s.pb.read (64 * s.blk.toNat + j) = some (x j)

/-- `t` is `s` after `k` steps of the schedule of block `x`, none of them the last: W holds its first `k` words. -/
structure State.ScheduledTo (s : State) (x : Nat → Byte) (k : Nat) (t : State) : Prop where
  frame : t = { s with w := t.w, t := t.t, phase := t.phase, fresh := t.fresh }
  counter : t.t.toNat = k
  phase : t.phase = if k < 16 then Phase.loadw else Phase.expand
  words : ∀ i : Fin 64, i.val < k → t.w[i] = some (schedule x i.val)

theorem State.ScheduledTo.start {s : State} (x : Nat → Byte) (ht : s.t = 0) (hp : s.phase = Phase.loadw) :
    s.ScheduledTo x 0 s :=
  ⟨rfl, by rw [ht]; rfl, hp, fun _ hi => absurd hi (Nat.not_lt_zero _)⟩

section
variable {s t : State} {x : Nat → Byte} {k : Nat} (h : s.ScheduledTo x k t)
include h

/-- The word U_LOADW then loads is word `k` of the schedule. -/
theorem State.ScheduledTo.loaded (hx : s.BlockIs x) (hk : k < 16) : t.pbWord t.wordAddr = schedule x k := by
  have byte (j : Nat) (hj : j < 64) : t.pb.read (64 * t.blk.toNat + j) = some (x j) := by
    rw [h.frame]
    exact hx j hj
  rw [State.wordAddr, h.counter, schedule_loaded x (by omega)]
  exact State.pbWord_of_some (byte (4 * k) (by omega)) (byte (4 * k + 1) (by omega)) (byte (4 * k + 2) (by omega))
    (byte (4 * k + 3) (by omega))

/-- The word U_EXPAND then derives is word `k` of the schedule. -/
theorem State.ScheduledTo.expanded (hk : 16 ≤ k) : t.expandOperand = schedule x k := by
  obtain rfl := h.counter
  have word (d : Nat) (hd : 0 < d) :
      t.w[t.t.toNat - d]'(Nat.lt_of_le_of_lt (Nat.sub_le _ _) t.t.isLt) = some (schedule x (t.t.toNat - d)) :=
    h.words ⟨t.t.toNat - d, Nat.lt_of_le_of_lt (Nat.sub_le _ _) t.t.isLt⟩ (Nat.sub_lt (by omega) hd)
  rw [schedule_expanded x hk]
  exact State.expandOperand_of_some hk (word 2 (by decide)) (word 7 (by decide)) (word 15 (by decide))
    (word 16 (by decide))

/-- With that word stored, W holds one word of the schedule more. -/
theorem State.ScheduledTo.words_succ {y : Word} (hy : y = schedule x k) (i : Fin 64) (hi : i.val < k + 1) :
    (t.w.set t.t.toNat (some y) t.t.isLt)[i] = some (schedule x i.val) := by
  obtain rfl := h.counter
  rw [reg_set_get]
  split
  · rename_i hit
    rw [hy, hit]
  · exact h.words i (by omega)

end

section
variable {s : State} {x : Nat → Byte} (hh : s.host = []) (hb : s.busy = true)
include hh hb

theorem State.ScheduledTo.step_loadw {t : State} {k : Nat} (h : s.ScheduledTo x k t) (hk : k < 16) :
    step t = exec .uLoadw t := by
  apply step_microOp
  · rw [h.frame]; exact hh
  · rw [h.frame]; exact hb
  · rw [h.phase, if_pos hk]; rfl

theorem State.ScheduledTo.step_expand {t : State} {k : Nat} (h : s.ScheduledTo x k t) (hk : ¬ k < 16) :
    step t = exec .uExpand t := by
  apply step_microOp
  · rw [h.frame]; exact hh
  · rw [h.frame]; exact hb
  · rw [h.phase, if_neg hk]; rfl

/-- A step that is not the last adds the next word: loaded below 16, derived from there on. -/
theorem State.ScheduledTo.next {t : State} {k : Nat} (hx : s.BlockIs x) (h : s.ScheduledTo x k t) (hk : k < 63) :
    Answers (step t) (s.ScheduledTo x (k + 1)) := by
  have hcounter : (t.t + 1).toNat = k + 1 := by rw [toNat_t_succ (h.counter ▸ hk), h.counter]
  by_cases h16 : k < 16
  case neg =>
    rw [h.step_expand hh hb h16]
    refine ⟨_, execUExpand_next (h.counter ▸ hk), ?_, hcounter, ?_, h.words_succ (h.expanded (by omega))⟩
    · rw [h.frame]
    · exact (h.phase.trans (if_neg h16)).trans (if_neg (by omega)).symm
  case pos =>
    rw [h.step_loadw hh hb h16]
    by_cases h15 : k = 15
    · refine ⟨_, execULoadw_last (h.counter.trans h15), ?_, hcounter, ?_, h.words_succ (h.loaded hx h16)⟩
      · rw [h.frame]
      · rw [if_neg (by omega)]
    · refine ⟨_, execULoadw_next (h.counter.trans_ne h15), ?_, hcounter, ?_, h.words_succ (h.loaded hx h16)⟩
      · rw [h.frame]
      · exact (h.phase.trans (if_pos h16)).trans (if_pos (by omega)).symm

/-- The last step of SCHEDULE adds the last word and completes the command. -/
theorem State.ScheduledTo.last {t : State} (h : s.ScheduledTo x 63 t) (hc : s.cur ≠ Op.hash) :
    Answers (step t) fun u =>
      u = { s with w := u.w, t := u.t, fresh := u.fresh, busy := false, done := true, phase := Phase.idle } ∧
      ∀ i : Fin 64, u.w[i] = some (schedule x i.val) := by
  have hlast : ¬ t.t.toNat < 63 := by rw [h.counter]; decide
  have hcur : t.cur = s.cur := by rw [h.frame]
  rw [h.step_expand hh hb (by decide)]
  refine ⟨_, execUExpand_last hlast (hcur ▸ hc), ?_, fun i => h.words_succ (h.expanded (by decide)) i i.isLt⟩
  rw [h.frame]

variable (hp : s.phase = Phase.loadw) (ht : s.t = 0) (hx : s.BlockIs x)
include hp ht hx

/-- The schedule of a block left to the ENGINE, up to the last word. -/
theorem run_schedule_words (k : Nat) (hk : k ≤ 63) : Answers (run k s) (s.ScheduledTo x k) := by
  induction k with
  | zero => exact ⟨s, rfl, .start x ht hp⟩
  | succ k ih =>
    obtain ⟨t, hrun, hsched⟩ := ih (by omega)
    obtain ⟨u, hstep, hnext⟩ := hsched.next hh hb hx hk
    exact ⟨u, run_snoc hrun hstep, hnext⟩

/-- The whole schedule of a block in SCHEDULE, left to the ENGINE. -/
theorem run_schedule (hc : s.cur ≠ Op.hash) :
    Answers (run 64 s) fun u =>
      u = { s with w := u.w, t := u.t, fresh := u.fresh, busy := false, done := true, phase := Phase.idle } ∧
      ∀ i : Fin 64, u.w[i] = some (schedule x i.val) := by
  obtain ⟨t, hrun, hsched⟩ := run_schedule_words hh hb hp ht hx 63 (Nat.le_refl 63)
  obtain ⟨u, hstep, hend⟩ := hsched.last hh hb hc
  exact ⟨u, run_snoc hrun hstep, hend⟩

end

theorem State.wv_of_some {s : State} {x : Nat → Word} (h : ∀ i : Fin 64, s.w[i] = some (x i.val)) : s.wv = true :=
  (allDefined_iff s.w).2 fun i hi => Option.isSome_of_mem (h ⟨i, hi⟩)

/-- Settles O54: the acceptance (O18), then the 64 words by induction on their number. -/
theorem scheduleComputesSchedule : Obligations.ScheduleComputesSchedule := by
  unfold Obligations.ScheduleComputesSchedule
  intro s x hi hv hP ha hx hh
  have haccept : step s = .next (s.setHost []).scheduleAccepted :=
    (step_command (c := 3#32) hh rfl).trans
      (execSchedule_accepted (s := s.setHost []) hi ((s.setHost []).checkBlock_none.2 ⟨hv, ha⟩))
  have hblock : (s.setHost []).scheduleAccepted.BlockIs x := by
    intro j hj
    have hblk : (s.setHost []).scheduleAccepted.blk.toNat = s.arg.toNat := toNat_blk_of_arg ha hP
    rw [hblk]
    exact hx j hj
  obtain ⟨t, hrun, hframe, hw⟩ := run_schedule (s := (s.setHost []).scheduleAccepted) rfl rfl rfl rfl hblock
    (by decide : Op.schedule ≠ Op.hash)
  refine ⟨t, ?_, ?_, hw, State.wv_of_some hw⟩
  · rw [Nat.add_comm, run_succ _ haccept]
    exact hrun
  · rw [hframe]
    rfl

end Sys2Proof.Machine
end

section
/-! The compressor (43_compress.md): COMPRESS (R186), U_LOADV (R187), U_ROUND (R184), U_FOLD (R188), and the compression
of a block as a whole. -/

namespace Sys2Proof.Machine

/-! Eight registers, all defined. -/

theorem eq_defined8 {file : Vector Reg 8} {x : Vector Word 8} (h : ∀ j : Fin 8, file[j] = some x[j]) :
    file = defined8 x := vector8_ext fun j => (h j).trans (defined8_get x j).symm

theorem State.allH_of_defined8 {s : State} {x : Vector Word 8} (h : s.h = defined8 x) : s.allH = x :=
  State.allH_of_some fun j => h ▸ defined8_get x j

theorem State.allV_of_defined8 {s : State} {x : Vector Word 8} (h : s.v = defined8 x) : s.allV = x :=
  State.allV_of_some fun j => h ▸ defined8_get x j

/-! The acceptance of COMPRESS (R186). -/

/-- The state after the acceptance writes of COMPRESS. -/
def State.compressAccepted (s : State) : State :=
  { s with cur := Op.compress, phase := Phase.loadv, busy := true, done := false }

theorem execCompress_accepted {s : State} (hi : s.idle = true) (hc : s.checkOperands = none) :
    exec .compress s = .next s.compressAccepted :=
  congrArg Host.Outcome.next (State.issue_accepted _ hi hc)

/-- Settles O19: the check passes when no register of H and W is undefined. -/
theorem compressAccepted : Obligations.CompressAccepted := by
  unfold Obligations.CompressAccepted
  intro s hi hh hw
  exact execCompress_accepted hi
    (s.checkOperands_none.2 ⟨(allDefined_iff_ne_none s.h).2 hh, (allDefined_iff_ne_none s.w).2 hw⟩)

/-! U_LOADV (R187). -/

theorem execULoadv_eq (s : State) :
    exec .uLoadv s = .next { s with
      v := defined8 s.allH, fresh := s.fresh + 1, phase := Phase.round, t := 0 } := rfl

/-- Settles O24: V becomes the words of H, which are those of `x`. -/
theorem uLoadvCopiesHashState : Obligations.ULoadvCopiesHashState := by
  unfold Obligations.ULoadvCopiesHashState
  intro s x hx
  have copied (j : Fin 8) : (defined8 s.allH)[j] = some x[j] := by
    rw [State.allH_of_some hx, defined8_get]
  exact ⟨_, execULoadv_eq s, rfl, copied, fun _ => rfl, allDefined_defined8 _, rfl, rfl, rfl, rfl⟩

/-! One step of U_ROUND (R184). -/

/-- A step that is not the last goes on to the next round. -/
theorem execURound_next {s : State} (h : s.t.toNat < 63) :
    exec .uRound s = .next { s with
      v := defined8 (round s.allV (Rom.k s.t) (s.readW s.t)), fresh := s.fresh + 1, t := s.t + 1 } :=
  congrArg Host.Outcome.next (if_pos h)

/-- The last step goes on to the addition. -/
theorem execURound_last {s : State} (h : ¬ s.t.toNat < 63) :
    exec .uRound s = .next { s with
      v := defined8 (round s.allV (Rom.k s.t) (s.readW s.t)), fresh := s.fresh + 1, phase := Phase.fold } :=
  congrArg Host.Outcome.next (if_neg h)

/-- Settles O25: in both cases of the step V becomes the round's result on a..h and W[T]. -/
theorem uRoundUpdatesWorkingVariables : Obligations.URoundUpdatesWorkingVariables := by
  unfold Obligations.URoundUpdatesWorkingVariables
  intro s a b c d e f g h x hv hw t1 t2
  have rounded : defined8 (round s.allV (Rom.k s.t) (s.readW s.t)) =
      #v[some (t1 + t2), some a, some b, some c, some (d + t1), some e, some f, some g] := by
    rw [State.allV_of_defined8 (x := #v[a, b, c, d, e, f, g, h]) hv, State.readW_of_some hw]
    rfl
  by_cases hlt : s.t.toNat < 63
  · exact ⟨_, execURound_next hlt, rfl, rounded, rfl, rfl, fun _ => ⟨toNat_t_succ hlt, rfl⟩,
      fun hlast => absurd hlt (by omega)⟩
  · exact ⟨_, execURound_last hlt, rfl, rounded, rfl, rfl, fun h => absurd h hlt, fun _ => ⟨rfl, rfl⟩⟩

/-! U_FOLD (R188). -/

theorem fold_get (x y : Vector Word 8) (j : Fin 8) : (fold x y)[j] = x[j] + y[j] := by
  match j with
  | 0 | 1 | 2 | 3 | 4 | 5 | 6 | 7 => rfl

/-- In a command other than HASH the step completes it. -/
theorem execUFold_complete {s : State} (hc : s.cur ≠ Op.hash) :
    exec .uFold s = .next { s with
      h := defined8 (fold s.allH s.allV), fresh := s.fresh + 1, busy := false, done := true, phase := Phase.idle } :=
  congrArg Host.Outcome.next (if_neg hc)

/-- Within HASH, at the last block, the step goes on to U_DISCARD. -/
theorem execUFold_lastBlock {s : State} (hc : s.cur = Op.hash) (hb : s.blk.toNat + 1 = s.plen.toNat / 64) :
    exec .uFold s = .next { s with
      h := defined8 (fold s.allH s.allV), fresh := s.fresh + 1, phase := Phase.discard } :=
  congrArg Host.Outcome.next ((if_pos hc).trans (if_pos hb))

/-- Within HASH, before the last block, the step goes on to the next one. -/
theorem execUFold_nextBlock {s : State} (hc : s.cur = Op.hash) (hb : s.blk.toNat + 1 ≠ s.plen.toNat / 64) :
    exec .uFold s = .next { s with
      h := defined8 (fold s.allH s.allV), fresh := s.fresh + 1, phase := Phase.loadw, blk := s.blk + 1, t := 0 } :=
  congrArg Host.Outcome.next ((if_pos hc).trans (if_neg hb))

/-- Settles O26: in all three cases of the step H becomes the sums, and BLK + 1 does not wrap. -/
theorem uFoldAddsWorkingVariables : Obligations.UFoldAddsWorkingVariables := by
  unfold Obligations.UFoldAddsWorkingVariables
  intro s x y hx hy hfit
  have sums (j : Fin 8) : (defined8 (fold s.allH s.allV))[j] = some (BitVec.ofNat 32 (x[j].toNat + y[j].toNat)) := by
    rw [State.allH_of_some hx, State.allV_of_some hy, defined8_get, fold_get, BitVec.add_def]
  have defined := allDefined_defined8 (fold s.allH s.allV)
  by_cases hc : s.cur = Op.hash
  case neg =>
    exact ⟨_, execUFold_complete hc, rfl, sums, fun _ => rfl, defined, fun heq => absurd heq hc,
      fun _ => ⟨rfl, rfl, rfl⟩⟩
  by_cases hb : s.blk.toNat + 1 = s.plen.toNat / 64
  · exact ⟨_, execUFold_lastBlock hc hb, rfl, sums, fun _ => rfl, defined,
      fun _ => ⟨rfl, rfl, fun _ => ⟨rfl, rfl, rfl⟩, fun hne => absurd hb hne⟩, fun hne => absurd hc hne⟩
  · have hblk : (s.blk + 1).toNat = s.blk.toNat + 1 := BitVec.toNat_add_of_lt hfit
    exact ⟨_, execUFold_nextBlock hc hb, rfl, sums, fun _ => rfl, defined,
      fun _ => ⟨rfl, rfl, fun heq => absurd heq hb, fun _ => ⟨hblk, rfl, rfl⟩⟩, fun hne => absurd hc hne⟩

/-! The compression of a block as a whole (R180, R186): what V holds after `k` steps of U_ROUND. -/

/-- W holds the words `w`. -/
def State.WordsAre (s : State) (w : Nat → Word) : Prop := ∀ i : Fin 64, s.w[i] = some (w i.val)

/-- `t` is `s` after `k` steps of U_ROUND, none of them the last: V holds the working variables after `k` rounds. -/
structure State.RoundedTo (s : State) (s0 : Vector Word 8) (w : Nat → Word) (k : Nat) (t : State) : Prop where
  frame : t = { s with v := t.v, t := t.t, fresh := t.fresh }
  counter : t.t.toNat = k
  working : t.v = defined8 (rounds s0 w k)

theorem State.RoundedTo.start {s : State} {s0 : Vector Word 8} (w : Nat → Word) (ht : s.t = 0)
    (hv : s.v = defined8 s0) : s.RoundedTo s0 w 0 s := ⟨rfl, by rw [ht]; rfl, hv⟩

section
variable {s t : State} {s0 : Vector Word 8} {w : Nat → Word} {k : Nat} (hw : s.WordsAre w) (h : s.RoundedTo s0 w k t)
include hw h

/-- The round U_ROUND then performs is round `k` of the compression. -/
theorem State.RoundedTo.round_eq : round t.allV (Rom.k t.t) (t.readW t.t) = rounds s0 w (k + 1) := by
  have word : t.readW t.t = w t.t.toNat := by
    apply State.readW_of_some
    rw [h.frame]
    exact hw ⟨t.t.toNat, t.t.isLt⟩
  rw [rounds, State.allV_of_defined8 h.working, word, ← h.counter, BitVec.ofNat_toNat, BitVec.setWidth_eq]

/-- A step that is not the last performs the next round. -/
theorem State.RoundedTo.next (hk : k < 63) : Answers (exec .uRound t) (s.RoundedTo s0 w (k + 1)) := by
  refine ⟨_, execURound_next (h.counter ▸ hk), ?_, ?_, congrArg defined8 (h.round_eq hw)⟩
  · rw [h.frame]
  · exact (toNat_t_succ (h.counter ▸ hk)).trans (congrArg (· + 1) h.counter)

end

/-- The last step performs the last round and goes on to the addition. -/
theorem State.RoundedTo.last {s t : State} {s0 : Vector Word 8} {w : Nat → Word} (hw : s.WordsAre w)
    (h : s.RoundedTo s0 w 63 t) :
    Answers (exec .uRound t) fun u =>
      u = { s with v := u.v, t := u.t, fresh := u.fresh, phase := Phase.fold } ∧ u.v = defined8 (rounds s0 w 64) := by
  refine ⟨_, execURound_last (by rw [h.counter]; decide), ?_, congrArg defined8 (h.round_eq hw)⟩
  rw [h.frame]

section
variable {s : State} {s0 : Vector Word 8} {w : Nat → Word} (hh : s.host = []) (hb : s.busy = true) (hw : s.WordsAre w)
include hh hb

/-- Every step of the phase is a U_ROUND. -/
theorem State.RoundedTo.step_eq (hp : s.phase = Phase.round) {t : State} {k : Nat} (h : s.RoundedTo s0 w k t) :
    step t = exec .uRound t := by
  apply step_microOp <;> rw [h.frame]
  · exact hh
  · exact hb
  · rw [hp]; rfl

include hw

/-- The ROUND phase left to the ENGINE, up to the last round. -/
theorem run_round (hp : s.phase = Phase.round) (ht : s.t = 0) (hv : s.v = defined8 s0) (k : Nat) (hk : k ≤ 63) :
    Answers (run k s) (s.RoundedTo s0 w k) := by
  induction k with
  | zero => exact ⟨s, rfl, .start w ht hv⟩
  | succ k ih =>
    obtain ⟨t, hrun, hrounded⟩ := ih (by omega)
    obtain ⟨u, hstep, hnext⟩ := hrounded.next hw hk
    exact ⟨u, run_snoc hrun ((hrounded.step_eq hh hb hp).trans hstep), hnext⟩

/-- The whole ROUND phase, left to the ENGINE. -/
theorem run_rounds (hp : s.phase = Phase.round) (ht : s.t = 0) (hv : s.v = defined8 s0) :
    Answers (run 64 s) fun u =>
      u = { s with v := u.v, t := u.t, fresh := u.fresh, phase := Phase.fold } ∧ u.v = defined8 (rounds s0 w 64) := by
  obtain ⟨t, hrun, hrounded⟩ := run_round hh hb hw hp ht hv 63 (Nat.le_refl 63)
  obtain ⟨u, hstep, hend⟩ := hrounded.last hw
  exact ⟨u, run_snoc hrun ((hrounded.step_eq hh hb hp).trans hstep), hend⟩

/-- From LOADV to FOLD, left to the ENGINE, in COMPRESS and in HASH. -/
theorem run_loadv_rounds (hp : s.phase = Phase.loadv) (hs : s.h = defined8 s0) :
    Answers (run 65 s) fun u =>
      u = { s with v := u.v, t := u.t, fresh := u.fresh, phase := Phase.fold } ∧ u.v = defined8 (rounds s0 w 64) := by
  have hload : step s = exec .uLoadv s := step_microOp hh hb (by rw [hp]; rfl)
  rw [execULoadv_eq, State.allH_of_defined8 hs] at hload
  rw [run_succ 64 hload]
  exact run_rounds hh hb hw rfl rfl rfl

/-- The whole compression in COMPRESS, left to the ENGINE. -/
theorem run_compress (hp : s.phase = Phase.loadv) (hs : s.h = defined8 s0) (hc : s.cur ≠ Op.hash) :
    Answers (run 66 s) fun u =>
      u = { s with h := u.h, v := u.v, t := u.t, fresh := u.fresh, busy := false, done := true,
                   phase := Phase.idle } ∧
      u.h = defined8 (compress s0 w) ∧ u.v = defined8 (rounds s0 w 64) := by
  obtain ⟨t, hrun, hframe, hv⟩ := run_loadv_rounds hh hb hw hp hs
  have hfold : step t = exec .uFold t := by
    apply step_microOp <;> rw [hframe]
    · exact hh
    · exact hb
    · rfl
  have hcur : t.cur = s.cur := by rw [hframe]
  have hsame : t.h = defined8 s0 := by rw [hframe]; exact hs
  rw [execUFold_complete (hcur ▸ hc), State.allH_of_defined8 hsame, State.allV_of_defined8 hv] at hfold
  refine ⟨_, run_snoc hrun hfold, ?_, rfl, hv⟩
  rw [hframe]

end

/-- Settles O55: the acceptance (O19), then U_LOADV, the 64 rounds by induction on their number, and U_FOLD. -/
theorem compressComputesCompression : Obligations.CompressComputesCompression := by
  unfold Obligations.CompressComputesCompression
  intro s s0 w hi hs hw hh
  have haccept : step s = .next (s.setHost []).compressAccepted :=
    (step_command (c := 4#32) hh rfl).trans
      (execCompress_accepted (s := s.setHost []) hi
        ((s.setHost []).checkOperands_none.2 ⟨State.hv_of_some hs, State.wv_of_some hw⟩))
  obtain ⟨t, hrun, hframe, hsum, hv⟩ := run_compress (s := (s.setHost []).compressAccepted) rfl rfl hw rfl
    (eq_defined8 hs) (by decide : Op.compress ≠ Op.hash)
  refine ⟨t, ?_, ?_, fun j => ?_, fun j => ?_, ?_⟩
  · rw [Nat.add_comm, run_succ _ haccept]
    exact hrun
  · rw [hframe]
    rfl
  · rw [hsum, defined8_get]
  · have difference : (compress s0 w)[j] - s0[j] = (rounds s0 w 64)[j] := by
      rw [compress, fold_get, BitVec.add_comm, BitVec.add_sub_cancel]
    rw [hv, defined8_get, difference]
  · rw [State.vv, hv]
    exact allDefined_defined8 _

end Sys2Proof.Machine
end

section
/-! The orchestration (44_digest_engine.md): a step as the decoded instruction (R210, R213), INIT (R205), U_INIT (R206)
and U_DISCARD (R208). -/

namespace Sys2Proof.Machine

/-! A step is an instruction (R210, R213). -/

/-- Settles O15: every arm of `exec` is a next state, and `step_total` says the same of steps. -/
theorem everyStepAnswers : Obligations.EveryStepAnswers := by
  unfold Obligations.EveryStepAnswers
  refine ⟨fun i s => ?_, fun s => ?_⟩
  · cases i <;> exact ⟨_, rfl⟩
  · obtain ⟨t, ht, _⟩ := step_total s
    exact ⟨t, ht⟩

/-- The ENGINE's turn as an item of the HOST's list. -/
theorem step_engine {s : State} {rest : List HostEvent} {i : Instr} (hh : s.host = .engine :: rest)
    (hb : s.busy = true) (hp : decodePhase s.phase = .ok i) : step s = exec i (s.setHost rest) :=
  (step_cons hh).trans (State.engineTurn_op (s := s.setHost rest) hb hp)

theorem withFetchWord_command (s : State) (c : BitVec 32) :
    s.withFetchWord 32 c.toNat = { s with host := .wr 0x00 (c.setWidth 64) :: s.host } := by
  have hword : tableWord 32 c.toNat = some (.command c) := by
    rw [tableWord, if_neg (by decide), if_pos c.isLt, BitVec.ofNat_toNat, BitVec.setWidth_eq]
  rw [State.withFetchWord, hword]
  rfl

theorem withFetchWord_phase (s : State) (p : BitVec 4) :
    s.withFetchWord 8 p.toNat = { s with phase := p, busy := true, host := .engine :: s.host } := by
  have hword : tableWord 8 p.toNat = some (.phase p) := by
    rw [tableWord, if_pos (by decide), if_pos p.isLt, BitVec.ofNat_toNat, BitVec.setWidth_eq]
  rw [State.withFetchWord, hword]
  rfl

/-- Settles O4: a command word by `step_command`, an ENGINE turn by `step_microOp` and `step_engine`, a round of WAIT by
`step_wait_busy`, and the placed words stand where these look. -/
theorem stepRunsDecodedInstruction : Obligations.StepRunsDecodedInstruction := by
  unfold Obligations.StepRunsDecodedInstruction
  refine ⟨fun s c rest i => step_command, fun s i => step_microOp, fun s rest i => step_engine, ?wait, ?placedCommand,
    ?placedPhase⟩
  case wait =>
    intro s rest i hh hb hp
    exact ⟨_, step_wait_busy hh hb, step_engine rfl hb hp, rfl⟩
  case placedCommand =>
    intro s c i hd
    rw [withFetchWord_command]
    exact step_command rfl hd
  case placedPhase =>
    intro s p i hp
    rw [withFetchWord_phase]
    exact step_engine rfl rfl hp

/-- The PHASE codes without a micro-operation (30_encoding.md R95, R96). -/
theorem decodePhase_error {p : BitVec 4} (h : p.toNat = 0 ∨ 9 ≤ p.toNat) : ∃ e, decodePhase p = .error e := by
  cases hd : decodePhase p with
  | error e => exact ⟨e, rfl⟩
  | ok i =>
    rcases decodePhase_cases hd with
      ⟨rfl, _⟩ | ⟨rfl, _⟩ | ⟨rfl, _⟩ | ⟨rfl, _⟩ | ⟨rfl, _⟩ | ⟨rfl, _⟩ | ⟨rfl, _⟩ | ⟨rfl, _⟩ <;>
    exact absurd h (by decide)

/-- Settles O5: without BUSY the ENGINE has no turn, and these PHASE codes decode to no micro-operation. -/
theorem noEngineStepNoChange : Obligations.NoEngineStepNoChange := by
  unfold Obligations.NoEngineStepNoChange
  intro s hh h
  rw [step_nil hh]
  rcases h with hb | hp
  · exact State.engineTurn_idle hb
  · obtain ⟨e, he⟩ := decodePhase_error hp
    unfold State.engineTurn
    rw [he]
    exact ite_self _

/-! U_INIT (R206) and INIT (R205). -/

/-- Within HASH the step goes on to the padding. -/
theorem execUInit_hash {s : State} (hc : s.cur = Op.hash) :
    exec .uInit s = .next { s with h := defined8 Rom.h0, phase := Phase.padbyte, pidx := 0 } :=
  congrArg Host.Outcome.next (if_pos hc)

/-- In a command other than HASH the step completes it. -/
theorem execUInit_complete {s : State} (hc : s.cur ≠ Op.hash) :
    exec .uInit s = .next { s with h := defined8 Rom.h0, busy := false, done := true, phase := Phase.idle } :=
  congrArg Host.Outcome.next (if_neg hc)

/-- Settles O20: both cases of the step write H0 to H. -/
theorem uInitSetsHashState : Obligations.UInitSetsHashState := by
  unfold Obligations.UInitSetsHashState
  intro s
  by_cases hc : s.cur = Op.hash
  · exact ⟨_, execUInit_hash hc, rfl, defined8_get _, allDefined_defined8 _, fun _ => ⟨rfl, rfl, rfl, rfl⟩,
      fun hne => absurd hc hne⟩
  · exact ⟨_, execUInit_complete hc, rfl, defined8_get _, allDefined_defined8 _, fun heq => absurd heq hc,
      fun _ => ⟨rfl, rfl, rfl, rfl⟩⟩

/-- The state after the acceptance writes of INIT. -/
def State.initAccepted (s : State) : State :=
  { s with cur := Op.init, phase := Phase.init, busy := true, done := false }

theorem execInit_accepted {s : State} (hi : s.idle = true) : exec .init s = .next s.initAccepted :=
  congrArg Host.Outcome.next (State.issue_accepted _ hi rfl)

/-- Settles O16: the accepted state, and the U_INIT that its PHASE selects. -/
theorem initRunsToCompletion : Obligations.InitRunsToCompletion := by
  unfold Obligations.InitRunsToCompletion
  refine ⟨rfl, fun s hi => ⟨_, execInit_accepted hi, rfl, ?_⟩⟩
  have hturn : s.initAccepted.engineTurn = exec .uInit s.initAccepted := State.engineTurn_op rfl rfl
  exact ⟨_, hturn.trans (execUInit_complete (by decide : Op.init ≠ Op.hash)), rfl, defined8_get _,
    allDefined_defined8 _⟩

/-! U_DISCARD (R208). -/

theorem execUDiscard_eq (s : State) :
    exec .uDiscard s = .next { s with
      pbv := false, pb := [], v := Vector.replicate 8 none, w := Vector.replicate 64 none, busy := false, done := true,
      phase := Phase.idle } := rfl

/-- Settles O27: what the step leaves is written out in `execUDiscard_eq`. -/
theorem uDiscardForgetsIntermediates : Obligations.UDiscardForgetsIntermediates := by
  unfold Obligations.UDiscardForgetsIntermediates
  exact fun s => ⟨_, execUDiscard_eq s, fun _ => rfl, rfl, fun i => Vector.getElem_replicate i.isLt,
    fun j => Vector.getElem_replicate j.isLt, allDefined_undefined (by decide), allDefined_undefined (by decide),
    rfl, rfl, rfl, rfl⟩

/-! Frames of the micro-operations that work on H and V. -/

/-- Everything U_INIT can change. -/
theorem execUInit_cases (s : State) :
    Answers (exec .uInit s) fun t =>
      t = { s with h := t.h, pidx := t.pidx, phase := t.phase, busy := t.busy, done := t.done } := by
  by_cases hc : s.cur = Op.hash
  · exact ⟨_, execUInit_hash hc, rfl⟩
  · exact ⟨_, execUInit_complete hc, rfl⟩

/-- Everything U_ROUND can change. -/
theorem execURound_cases (s : State) :
    Answers (exec .uRound s) fun t => t = { s with v := t.v, t := t.t, phase := t.phase, fresh := t.fresh } := by
  by_cases h : s.t.toNat < 63
  · exact ⟨_, execURound_next h, rfl⟩
  · exact ⟨_, execURound_last h, rfl⟩

/-- Everything U_FOLD can change. -/
theorem execUFold_cases (s : State) :
    Answers (exec .uFold s) fun t =>
      t = { s with h := t.h, blk := t.blk, t := t.t, phase := t.phase, busy := t.busy, done := t.done,
                   fresh := t.fresh } := by
  by_cases hc : s.cur = Op.hash
  case neg => exact ⟨_, execUFold_complete hc, rfl⟩
  by_cases hb : s.blk.toNat + 1 = s.plen.toNat / 64
  · exact ⟨_, execUFold_lastBlock hc hb, rfl⟩
  · exact ⟨_, execUFold_nextBlock hc hb, rfl⟩

/-- Settles O28: none of the frames names a memory. -/
theorem registerMicroOpsFrame : Obligations.RegisterMicroOpsFrame := by
  unfold Obligations.RegisterMicroOpsFrame
  intro s
  refine ⟨fun t ht => ?uInit, fun t ht => ?uLoadv, fun t ht => ?uRound, fun t ht => ?uFold⟩
  case uInit =>
    have hframe := (execUInit_cases s).of_next ht
    exact ⟨hframe, fun a => by rw [hframe]; exact ⟨rfl, rfl⟩⟩
  case uLoadv =>
    cases (execULoadv_eq s).symm.trans ht
    exact ⟨rfl, fun _ => ⟨rfl, rfl⟩⟩
  case uRound =>
    have hframe := (execURound_cases s).of_next ht
    exact ⟨hframe, fun a => by rw [hframe]; exact ⟨rfl, rfl⟩⟩
  case uFold =>
    have hframe := (execUFold_cases s).of_next ht
    exact ⟨hframe, fun a => by rw [hframe]; exact ⟨rfl, rfl⟩⟩

end Sys2Proof.Machine
end

section
/-! HASH (44_digest_engine.md R207), and the phases it shares with the other commands, as runs of the ENGINE that the HOST
may watch: `Leads Q k s` says that `k` micro-operations lead from `s` to a state with `Q`, whatever free values the HOST's
reads in between use up. It gives the run with the HOST's list empty and the run under WAIT (30_encoding.md R104). -/

namespace Sys2Proof.Machine

/-- The HOST has nothing to do, and the ENGINE's turn is a micro-operation (44_digest_engine.md R213). -/
structure State.HasMicroOp (s : State) : Prop where
  alone : s.host = []
  busy : s.busy = true
  selected : ∃ i, decodePhase s.phase = .ok i

/-- `k` micro-operations lead from `s` to a state with `Q`, whatever the counter of free values is before each. -/
def Leads (Q : State → Prop) : Nat → State → Prop
  | 0, s => Q s
  | k + 1, s => s.HasMicroOp ∧ ∀ f, Answers (step { s with fresh := f }) (Leads Q k)

theorem Leads.trans {P Q : State → Prop} {k : Nat} (hQ : ∀ t, P t → Leads Q k t) :
    ∀ {j : Nat} {s : State}, Leads P j s → Leads Q (k + j) s
  | 0, _, h => hQ _ h
  | _ + 1, _, ⟨hop, h⟩ => ⟨hop, fun f =>
      let ⟨t, ht, hP⟩ := h f
      ⟨t, ht, Leads.trans hQ hP⟩⟩

theorem Leads.mono {P Q : State → Prop} (hQ : ∀ t, P t → Q t) {k : Nat} {s : State} (h : Leads P k s) :
    Leads Q k s := Nat.zero_add k ▸ Leads.trans (k := 0) hQ h

/-- A condition that `c` micro-operations at a time take from `P k` to `P (k + 1)`. -/
theorem Leads.iterate {P : Nat → State → Prop} {c : Nat} {s : State} (h0 : P 0 s) :
    ∀ n, (∀ k t, k < n → P k t → Leads (P (k + 1)) c t) → Leads (P n) (c * n) s
  | 0, _ => h0
  | n + 1, hstep => by
    have h := Leads.trans (hstep n · (Nat.lt_succ_self n))
      (Leads.iterate h0 n fun k t hk => hstep k t (Nat.lt_succ_of_lt hk))
    rwa [Nat.add_comm c] at h

/-- The same, a micro-operation at a time. -/
theorem Leads.iterateOne {P : Nat → State → Prop} {s : State} (h0 : P 0 s) (n : Nat)
    (hstep : ∀ k t, k < n → P k t → Leads (P (k + 1)) 1 t) : Leads (P n) n s := by
  have h := Leads.iterate h0 n hstep
  rwa [Nat.one_mul] at h

theorem Leads.snoc {P Q : State → Prop} {k : Nat} {s : State} (h : Leads P k s) (hlast : ∀ t, P t → Leads Q 1 t) :
    Leads Q (k + 1) s := Nat.add_comm 1 k ▸ Leads.trans hlast h

/-- One micro-operation, said of the instruction that PHASE selects. -/
theorem Leads.microOp {Q : State → Prop} {s : State} {i : Instr} (hh : s.host = []) (hb : s.busy = true)
    (hp : decodePhase s.phase = .ok i) (hx : ∀ f, Answers (exec i { s with fresh := f }) Q) : Leads Q 1 s :=
  ⟨⟨hh, hb, i, hp⟩, fun f => step_microOp (s := { s with fresh := f }) hh hb hp ▸ hx f⟩

/-- The run with the HOST's list empty. -/
theorem Leads.run {Q : State → Prop} : ∀ {k : Nat} {s : State}, Leads Q k s → Answers (Machine.run k s) Q
  | 0, s, h => ⟨s, rfl, h⟩
  | k + 1, s, ⟨_, h⟩ =>
    let ⟨_, ht, hQ⟩ := h s.fresh
    let ⟨u, hu, hend⟩ := Leads.run hQ
    ⟨u, (run_succ k ht).trans hu, hend⟩

/-! The three long phases; the reads of STATUS between two steps do not touch what the phases count on. -/

theorem State.PaddedTo.setFresh {s t : State} {k : Nat} (h : s.PaddedTo k t) (f : Nat) :
    s.PaddedTo k { t with fresh := f } := ⟨by rw [h.frame], h.pidx, h.content⟩

theorem State.ScheduledTo.setFresh {s t : State} {x : Nat → Byte} {k : Nat} (h : s.ScheduledTo x k t) (f : Nat) :
    s.ScheduledTo x k { t with fresh := f } := ⟨by rw [h.frame], h.counter, h.phase, h.words⟩

theorem State.RoundedTo.setFresh {s t : State} {s0 : Vector Word 8} {w : Nat → Word} {k : Nat}
    (h : s.RoundedTo s0 w k t) (f : Nat) : s.RoundedTo s0 w k { t with fresh := f } :=
  ⟨by rw [h.frame], h.counter, h.working⟩

section
variable {s : State} (hh : s.host = []) (hb : s.busy = true)
include hh hb

theorem State.PaddedTo.leads {t : State} {k : Nat} {Q : State → Prop} (hp : s.phase = Phase.padbyte)
    (h : s.PaddedTo k t) (hx : ∀ u, s.PaddedTo k u → Answers (exec .uPadbyte u) Q) : Leads Q 1 t := by
  refine .microOp ?_ ?_ ?_ fun f => hx _ (h.setFresh f) <;> rw [h.frame]
  · exact hh
  · exact hb
  · rw [hp]; rfl

theorem State.ScheduledTo.leads {x : Nat → Byte} {t : State} {k : Nat} {Q : State → Prop} (h : s.ScheduledTo x k t)
    (hx : ∀ u, s.ScheduledTo x k u → Answers (step u) Q) : Leads Q 1 t := by
  have hselected : ∃ i, decodePhase t.phase = .ok i := by
    rw [h.phase]
    split
    · exact ⟨.uLoadw, rfl⟩
    · exact ⟨.uExpand, rfl⟩
  exact ⟨⟨by rw [h.frame]; exact hh, by rw [h.frame]; exact hb, hselected⟩, fun f => hx _ (h.setFresh f)⟩

theorem State.RoundedTo.leads {s0 : Vector Word 8} {w : Nat → Word} {t : State} {k : Nat} {Q : State → Prop}
    (hp : s.phase = Phase.round) (h : s.RoundedTo s0 w k t)
    (hx : ∀ u, s.RoundedTo s0 w k u → Answers (exec .uRound u) Q) : Leads Q 1 t := by
  refine .microOp ?_ ?_ ?_ fun f => hx _ (h.setFresh f) <;> rw [h.frame]
  · exact hh
  · exact hb
  · rw [hp]; rfl

/-- The PADBYTE phase, whose last step leads to `Q`. -/
theorem leads_padbyte {Q : State → Prop} (hp : s.phase = Phase.padbyte) (hl : s.LengthsChecked) (hi : s.pidx = 0)
    (hpb : s.pb = [])
    (hlast : ∀ k t, k + 1 = plenOf s.mlen.toNat → s.PaddedTo k t → Answers (exec .uPadbyte t) Q) :
    Leads Q (plenOf s.mlen.toNat) s := by
  obtain ⟨n, hn⟩ := Nat.exists_eq_add_of_le' (Nat.le_of_add_left_le (add_nine_le_plenOf s.mlen.toNat))
  have hbefore : Leads (s.PaddedTo (n + 8)) (n + 8) s :=
    Leads.iterateOne (P := s.PaddedTo) (.start hi hpb) _ fun k t hk h =>
      h.leads hh hb hp fun u hu => hu.next hl (by omega)
  rw [hn]
  exact hbefore.snoc fun t h => h.leads hh hb hp fun u => hlast _ u hn.symm

/-- The PADBYTE phase of PAD (41_padding.md R144). -/
theorem leads_padCommand (hp : s.phase = Phase.padbyte) (hl : s.LengthsChecked) (hi : s.pidx = 0) (hpb : s.pb = [])
    (hc : s.cur ≠ Op.hash) :
    Leads (fun u => u = { s with pb := u.pb, pidx := u.pidx, fresh := u.fresh, pbv := true, busy := false,
                                 done := true, phase := Phase.idle } ∧
      ∀ i, u.pb.read i = (pad s.msgByte s.mlen.toNat)[i]?) (plenOf s.mlen.toNat) s :=
  leads_padbyte hh hb hp hl hi hpb fun _ _ hk h => h.last hl hk hc

/-- The schedule of a block, whose last step leads to `Q`. -/
theorem leads_schedule {x : Nat → Byte} {Q : State → Prop} (hp : s.phase = Phase.loadw) (ht : s.t = 0)
    (hx : s.BlockIs x) (hlast : ∀ t, s.ScheduledTo x 63 t → Answers (step t) Q) : Leads Q 64 s :=
  (Leads.iterateOne (P := s.ScheduledTo x) (.start x ht hp) 63 fun _ _ hk h =>
    h.leads hh hb fun _ hu => hu.next hh hb hx hk).snoc fun _ h => h.leads hh hb hlast

/-- The schedule of a block in SCHEDULE (42_schedule.md R163). -/
theorem leads_scheduleCommand {x : Nat → Byte} (hp : s.phase = Phase.loadw) (ht : s.t = 0) (hx : s.BlockIs x)
    (hc : s.cur ≠ Op.hash) :
    Leads (fun u => u = { s with w := u.w, t := u.t, fresh := u.fresh, busy := false, done := true,
                                 phase := Phase.idle } ∧ u.WordsAre (schedule x)) 64 s :=
  leads_schedule hh hb hp ht hx fun _ h => h.last hh hb hc

/-- The last step of the schedule within HASH adds the last word and goes on to the compression. -/
theorem State.ScheduledTo.last_hash {x : Nat → Byte} {t : State} (h : s.ScheduledTo x 63 t) (hc : s.cur = Op.hash) :
    Answers (step t) fun u =>
      u = { s with w := u.w, t := u.t, fresh := u.fresh, phase := Phase.loadv } ∧ u.WordsAre (schedule x) := by
  have hlast : ¬ t.t.toNat < 63 := by rw [h.counter]; decide
  have hcur : t.cur = s.cur := by rw [h.frame]
  rw [h.step_expand hh hb (by decide)]
  refine ⟨_, execUExpand_last_hash hlast (hcur.trans hc), ?_, fun i => h.words_succ (h.expanded (by decide)) i i.isLt⟩
  rw [h.frame]

/-- The ROUND phase. -/
theorem leads_round {s0 : Vector Word 8} {w : Nat → Word} (hw : s.WordsAre w) (hp : s.phase = Phase.round)
    (ht : s.t = 0) (hv : s.v = defined8 s0) :
    Leads (fun u => u = { s with v := u.v, t := u.t, fresh := u.fresh, phase := Phase.fold } ∧
      u.v = defined8 (rounds s0 w 64)) 64 s := by
  have hbefore : Leads (s.RoundedTo s0 w 63) 63 s :=
    Leads.iterateOne (P := s.RoundedTo s0 w) (.start w ht hv) 63 fun _ _ hk h =>
      h.leads hh hb hp fun _ hu => hu.next hw hk
  exact hbefore.snoc fun _ h => h.leads hh hb hp fun _ hu => hu.last hw

end

/-- `t` is `s` after U_LOADV and the 64 rounds on the words `w` from the hash state `s0`, before U_FOLD. -/
structure State.RoundsDone (s : State) (s0 : Vector Word 8) (w : Nat → Word) (t : State) : Prop where
  frame : t = { s with v := t.v, t := t.t, fresh := t.fresh, phase := Phase.fold }
  hashState : t.h = defined8 s0
  working : t.v = defined8 (rounds s0 w 64)

section
variable {s : State} {s0 : Vector Word 8} {w : Nat → Word} (hh : s.host = []) (hb : s.busy = true)
include hh hb

/-- From LOADV to FOLD, in COMPRESS and in HASH. -/
theorem leads_loadv_rounds (hw : s.WordsAre w) (hp : s.phase = Phase.loadv) (hs : s.h = defined8 s0) :
    Leads (s.RoundsDone s0 w) 65 s := by
  have hload : Leads (fun u => ∃ g, u = { s with v := defined8 s0, fresh := g, phase := Phase.round, t := 0 }) 1 s := by
    refine .microOp (i := .uLoadv) hh hb (by rw [hp]; rfl) fun f => ?_
    rw [execULoadv_eq, State.allH_of_defined8 (x := s0) (by exact hs)]
    exact ⟨_, rfl, _, rfl⟩
  refine Leads.trans (k := 64) ?_ hload
  rintro _ ⟨g, rfl⟩
  refine (leads_round (s := { s with v := defined8 s0, fresh := g, phase := Phase.round, t := 0 }) hh hb hw rfl rfl
    rfl).mono fun u ⟨hframe, hv⟩ => ⟨?_, ?_, hv⟩
  · rw [hframe]
  · rw [hframe]; exact hs

/-- After the rounds the ENGINE's step is U_FOLD. -/
theorem State.RoundsDone.leads {t : State} {Q : State → Prop} (h : s.RoundsDone s0 w t)
    (hfold : ∀ u, s.RoundsDone s0 w u → Answers (exec .uFold u) Q) : Leads Q 1 t := by
  have hsame (f : Nat) : s.RoundsDone s0 w { t with fresh := f } := ⟨by rw [h.frame], h.hashState, h.working⟩
  refine .microOp ?_ ?_ ?_ fun f => hfold _ (hsame f) <;> rw [h.frame]
  · exact hh
  · exact hb
  · rfl

end

/-- What U_FOLD then writes to H is the compression. -/
theorem State.RoundsDone.sum {s t : State} {s0 : Vector Word 8} {w : Nat → Word} (h : s.RoundsDone s0 w t) :
    fold t.allH t.allV = compress s0 w := by
  rw [State.allH_of_defined8 h.hashState, State.allV_of_defined8 h.working, compress]

/-- The compression in COMPRESS (43_compress.md R186). -/
theorem leads_compressCommand {s : State} {s0 : Vector Word 8} {w : Nat → Word} (hh : s.host = []) (hb : s.busy = true)
    (hw : s.WordsAre w) (hp : s.phase = Phase.loadv) (hs : s.h = defined8 s0) (hc : s.cur ≠ Op.hash) :
    Leads (fun u => u = { s with h := u.h, v := u.v, t := u.t, fresh := u.fresh, busy := false, done := true,
                                 phase := Phase.idle } ∧
      u.h = defined8 (compress s0 w) ∧ u.v = defined8 (rounds s0 w 64)) 66 s := by
  refine (leads_loadv_rounds hh hb hw hp hs).snoc fun t ht => ht.leads hh hb fun u h => ?_
  have hcur : u.cur = s.cur := by rw [h.frame]
  refine ⟨_, execUFold_complete (hcur.trans_ne hc), ?_, congrArg defined8 h.sum, h.working⟩
  rw [h.frame]

/-! HASH (44_digest_engine.md R207), block by block. -/

/-- `t` is `s`, in HASH, before block `n`: PB holds pad(m), and H the state after the blocks before it. -/
structure State.AtBlock (s : State) (n : Nat) (t : State) : Prop where
  frame : t = { s with h := t.h, v := t.v, w := t.w, pb := t.pb, pbv := true, blk := t.blk, t := 0, pidx := t.pidx,
                       phase := Phase.loadw, fresh := t.fresh }
  block : t.blk.toNat = n
  content : ∀ i, t.pb.read i = (pad s.msgByte s.mlen.toNat)[i]?
  hashState : t.h = defined8 (hashBlocks s.msgByte s.mlen.toNat n)

/-- `t` is `s`, in HASH, before the U_FOLD of block `n`. -/
structure State.AtFold (s : State) (n : Nat) (t : State) : Prop where
  frame : t = { s with h := t.h, v := t.v, w := t.w, pb := t.pb, pbv := true, blk := t.blk, t := t.t, pidx := t.pidx,
                       phase := Phase.fold, fresh := t.fresh }
  block : t.blk.toNat = n
  content : ∀ i, t.pb.read i = (pad s.msgByte s.mlen.toNat)[i]?
  sum : fold t.allH t.allV = hashBlocks s.msgByte s.mlen.toNat (n + 1)

/-- `t` is `s`, in HASH, after the last block. -/
structure State.AtDiscard (s : State) (t : State) : Prop where
  frame : t = { s with h := t.h, v := t.v, w := t.w, pb := t.pb, pbv := true, blk := t.blk, t := t.t, pidx := t.pidx,
                       phase := Phase.discard, fresh := t.fresh }
  hashState : t.h = defined8 (hashWords s.msgByte s.mlen.toNat)

/-- `t` is `s` after HASH has completed. -/
structure State.Hashed (s : State) (t : State) : Prop where
  frame : t = { s with h := t.h, v := Vector.replicate 8 none, w := Vector.replicate 64 none, pb := [], pbv := false,
                       blk := t.blk, t := t.t, pidx := t.pidx, busy := false, done := true, phase := Phase.idle,
                       fresh := t.fresh }
  hashState : t.h = defined8 (hashWords s.msgByte s.mlen.toNat)

theorem blocksOf_pos (L : Nat) : 1 ≤ blocksOf L := by
  rw [blocksOf_eq]
  omega

/-- The bytes of block `n` of a buffer that holds pad(m). -/
theorem pad_block {m : Nat → Byte} {L n j : Nat} (hn : n < blocksOf L) (hj : j < 64) :
    (pad m L)[64 * n + j]? = some (blockOf m L n j) := by
  have hlt : 64 * n + j < plenOf L := by
    unfold blocksOf at hn
    omega
  rw [pad, List.getElem?_map, List.getElem?_range hlt]
  rfl

section
variable {s : State} {n : Nat} {t : State} (hc : s.cur = Op.hash) (hl : s.LengthsChecked)
include hc hl

/-- U_FOLD before the last block goes on to the next one. -/
theorem State.AtFold.next (h : s.AtFold n t) (hn : n + 1 < blocksOf s.mlen.toNat) :
    Answers (exec .uFold t) (s.AtBlock (n + 1)) := by
  obtain ⟨hmax, _⟩ := plenOf_fits hl.length
  have hcur : t.cur = Op.hash := by rw [h.frame]; exact hc
  have hplen : t.plen.toNat = plenOf s.mlen.toNat := by rw [h.frame]; exact hl.padded
  have hlt : t.blk.toNat + 1 < t.plen.toNat / 64 := by rw [h.block, hplen]; exact hn
  refine ⟨_, execUFold_nextBlock hcur hlt.ne, ?_, ?_, h.content, congrArg defined8 h.sum⟩
  · rw [h.frame]
  · exact (toNat_blk_succ hlt (hplen.trans_le hmax)).trans (congrArg (· + 1) h.block)

/-- U_FOLD at the last block leaves the digest in H and goes on to U_DISCARD. -/
theorem State.AtFold.last (h : s.AtFold n t) (hn : n + 1 = blocksOf s.mlen.toNat) :
    Answers (exec .uFold t) s.AtDiscard := by
  have hcur : t.cur = Op.hash := by rw [h.frame]; exact hc
  have hplen : t.plen.toNat = plenOf s.mlen.toNat := by rw [h.frame]; exact hl.padded
  have hlast : t.blk.toNat + 1 = t.plen.toNat / 64 := by rw [h.block, hplen]; exact hn
  refine ⟨_, execUFold_lastBlock hcur hlast, ?_, ?_⟩
  · rw [h.frame]
  · rw [hashWords, ← hn]
    exact congrArg defined8 h.sum

/-- The last step of the padding within HASH writes the last byte and goes on to block 0. -/
theorem State.PaddedTo.last_hash (h : s.PaddedTo n t) (hn : n + 1 = plenOf s.mlen.toNat)
    (hs : s.h = defined8 Rom.h0) : Answers (exec .uPadbyte t) (s.AtBlock 0) := by
  have hlast : ¬ t.pidx.toNat < t.plen.toNat - 1 := by
    rw [h.pidx, h.plen hl]
    omega
  have hcur : t.cur = Op.hash := by rw [h.frame]; exact hc
  refine ⟨_, execUPadbyte_last_hash hlast hcur, ?_, rfl, fun i => ?_, ?_⟩
  · rw [h.frame]
  · rw [h.content_succ hl (by omega), hn, ← pad_length s.msgByte, List.take_length]
  · rw [h.frame]
    exact hs

end

section
variable {s : State} (hh : s.host = []) (hb : s.busy = true)
include hh hb

/-- U_DISCARD completes HASH. -/
theorem State.AtDiscard.leads {t : State} (h : s.AtDiscard t) : Leads s.Hashed 1 t := by
  refine .microOp (i := .uDiscard) ?_ ?_ ?_ fun f => ⟨_, execUDiscard_eq _, ?_, h.hashState⟩ <;> rw [h.frame]
  · exact hh
  · exact hb
  · rfl

variable (hc : s.cur = Op.hash)
include hc

/-- A block of HASH, whose U_FOLD leads to `Q`. -/
theorem State.AtBlock.leads {n : Nat} {t : State} {Q : State → Prop} (h : s.AtBlock n t)
    (hn : n < blocksOf s.mlen.toNat) (hfold : ∀ u, s.AtFold n u → Answers (exec .uFold u) Q) : Leads Q 130 t := by
  have hhost : t.host = [] := by rw [h.frame]; exact hh
  have hbusy : t.busy = true := by rw [h.frame]; exact hb
  have hcur : t.cur = Op.hash := by rw [h.frame]; exact hc
  have hphase : t.phase = Phase.loadw := by rw [h.frame]
  have ht : t.t = 0 := by rw [h.frame]
  have hblock : t.BlockIs (blockOf s.msgByte s.mlen.toNat n) := fun j hj => by
    rw [h.content, h.block, pad_block hn hj]
  refine Leads.trans (k := 66) (fun v ⟨hv, hw⟩ => ?_)
    (leads_schedule hhost hbusy hphase ht hblock fun _ hs => hs.last_hash hhost hbusy hcur)
  have hhost' : v.host = [] := by rw [hv]; exact hhost
  have hbusy' : v.busy = true := by rw [hv]; exact hbusy
  have hhash' : v.h = defined8 (hashBlocks s.msgByte s.mlen.toNat n) := by rw [hv]; exact h.hashState
  refine (leads_loadv_rounds hhost' hbusy' hw (by rw [hv]) hhash').snoc fun u hu =>
    hu.leads hhost' hbusy' fun u hu => hfold u ⟨?_, ?_, ?_, hu.sum⟩
  · rw [hu.frame, hv, h.frame]
  · rw [hu.frame, hv]; exact h.block
  · rw [hu.frame, hv]; exact h.content

variable (hl : s.LengthsChecked)
include hl

/-- All blocks of HASH. -/
theorem State.AtBlock.leads_discard {t : State} (h : s.AtBlock 0 t) :
    Leads s.AtDiscard (130 * blocksOf s.mlen.toNat) t := by
  obtain ⟨n, hn⟩ := Nat.exists_eq_add_of_le' (blocksOf_pos s.mlen.toNat)
  have hbefore : Leads (s.AtBlock n) (130 * n) t := Leads.iterate h n fun k u hk hu =>
    hu.leads hh hb hc (by omega) fun v hv => hv.next hc hl (by omega)
  have hall := Leads.trans (fun u hu => hu.leads hh hb hc (by omega) fun v hv => hv.last hc hl hn.symm) hbefore
  rw [Nat.add_comm] at hall
  rw [hn]
  exact hall

/-- The PADBYTE phase of HASH. -/
theorem leads_padbyte_hash (hp : s.phase = Phase.padbyte) (hi : s.pidx = 0) (hpb : s.pb = [])
    (hs : s.h = defined8 Rom.h0) : Leads (s.AtBlock 0) (plenOf s.mlen.toNat) s :=
  leads_padbyte hh hb hp hl hi hpb fun _ _ hk ht => ht.last_hash hc hl hk hs

/-- HASH after its acceptance: U_INIT, the padding, the blocks, and U_DISCARD. -/
theorem leads_hash (hp : s.phase = Phase.init) (hpb : s.pb = []) :
    Leads s.Hashed (2 + 194 * blocksOf s.mlen.toNat) s := by
  have hinit : Leads (fun u => ∃ g, u = { s with h := defined8 Rom.h0, phase := Phase.padbyte, pidx := 0, fresh := g })
      1 s :=
    .microOp (i := .uInit) hh hb (by rw [hp]; rfl) fun f => ⟨_, execUInit_hash hc, f, rfl⟩
  have hpadded : Leads (s.AtBlock 0) (plenOf s.mlen.toNat + 1) s := by
    refine Leads.trans ?_ hinit
    rintro _ ⟨g, rfl⟩
    exact (leads_padbyte_hash (s := { s with h := defined8 Rom.h0, phase := Phase.padbyte, pidx := 0, fresh := g })
      hh hb hc ⟨hl.length, hl.message, hl.buffer, hl.padded⟩ rfl rfl hpb rfl).mono
      fun u hu => ⟨hu.frame, hu.block, hu.content, hu.hashState⟩
  have hall := (Leads.trans (fun t ht => State.AtBlock.leads_discard hh hb hc hl ht) hpadded).snoc fun t ht =>
    ht.leads hh hb
  have hcount : 130 * blocksOf s.mlen.toNat + (plenOf s.mlen.toNat + 1) + 1 = 2 + 194 * blocksOf s.mlen.toNat := by
    rw [blocksOf_eq, plenOf]
    omega
  rwa [hcount] at hall

end

/-! HASH as a whole. -/

/-- The state after the acceptance writes of HASH. -/
def State.hashAccepted (s : State) : State :=
  { s with
    plen := BitVec.ofNat 64 (plenOf s.mlen.toNat), pbv := false, pb := [], cur := Op.hash, phase := Phase.init,
    busy := true, done := false }

theorem State.hashAccepted_checked {s : State} (hc : s.checkLength = none) : s.hashAccepted.LengthsChecked := by
  obtain ⟨hl, _⟩ := State.openBuffer_checked hc
  exact ⟨hl.length, hl.message, hl.buffer, hl.padded⟩

theorem leads_hashAccepted {s : State} (hh : s.host = []) (hc : s.checkLength = none) :
    Leads s.hashAccepted.Hashed (2 + 194 * blocksOf s.mlen.toNat) s.hashAccepted :=
  leads_hash (s := s.hashAccepted) hh rfl rfl (State.hashAccepted_checked hc) rfl rfl

/-- The write of HASH to CMD and the command to its end, left to the ENGINE. -/
theorem run_hash {s : State} (hi : s.idle = true) (hc : s.checkLength = none)
    (hh : s.host = [.wr 0x00 0x00000005#64]) :
    Answers (run (1 + (2 + 194 * blocksOf s.mlen.toNat)) s) (s.setHost []).hashAccepted.Hashed := by
  have haccept : step s = .next (s.setHost []).hashAccepted :=
    (step_command (c := 5#32) hh rfl).trans (execHash_accepted (s := s.setHost []) hi hc)
  rw [Nat.add_comm, run_succ _ haccept]
  exact (leads_hashAccepted (s := s.setHost []) rfl hc).run

/-- Settles O56: the acceptance (O17), then U_INIT, the padding by induction on the bytes, the blocks by induction on
their number, and U_DISCARD. -/
theorem hashComputesDigest : Obligations.HashComputesDigest := by
  unfold Obligations.HashComputesDigest
  intro s hi hc hh L
  obtain ⟨t, hrun, ht⟩ := run_hash hi hc hh
  refine ⟨t, hrun, ?_, fun j => ?_, ?_, ?_, fun i => ?_, fun j => ?_, fun i => ?_⟩
  · rw [ht.frame]
    rfl
  · rw [ht.hashState, defined8_get]
    rfl
  · rw [State.hv, ht.hashState]
    exact allDefined_defined8 _
  · rw [ht.frame]
    exact (State.hashAccepted_checked hc).padded
  · rw [ht.frame]
    rfl
  · rw [ht.frame]
    exact Vector.getElem_replicate j.isLt
  · rw [ht.frame]
    exact Vector.getElem_replicate i.isLt

/-! The digest depends on the message only (R203). -/

theorem padbyte_congr {m m' : Nat → Byte} {L : Nat} (h : ∀ i, i < L → m i = m' i) : padbyte m L = padbyte m' L := by
  funext i
  unfold padbyte padByteOf
  by_cases hi : i < L
  · rw [if_pos hi, if_pos hi, h i hi]
  · rw [if_neg hi, if_neg hi]

theorem hashBlocks_congr {m m' : Nat → Byte} {L : Nat} (h : ∀ i, i < L → m i = m' i) (n : Nat) :
    hashBlocks m L n = hashBlocks m' L n := by
  induction n with
  | zero => rfl
  | succ n ih =>
    have hblock : blockOf m L n = blockOf m' L n := by unfold blockOf; rw [padbyte_congr h]
    rw [hashBlocks, hashBlocks, ih, hblock]

theorem hashWords_congr {m m' : Nat → Byte} {L : Nat} (h : ∀ i, i < L → m i = m' i) : hashWords m L = hashWords m' L :=
  hashBlocks_congr h (blocksOf L)

/-- A HASH that an engine without a fault has completed is a good end (R217). -/
theorem State.Hashed.goodEnd {s t : State} (h : s.Hashed t) (hh : s.host = []) (hf : s.fault = false) :
    t.GoodEnd true := by
  rw [h.frame]
  exact ⟨hh, rfl, hf, fun _ => rfl⟩

/-- Settles O57: both runs end as O56 says, and hash_words looks at no more than the message. -/
theorem hashDependsOnMessageOnly : Obligations.HashDependsOnMessageOnly := by
  unfold Obligations.HashDependsOnMessageOnly
  intro s1 s2 hi1 hi2 hc1 hc2 hh1 hh2 hlen hmsg
  obtain ⟨t1, hrun1, ht1⟩ := run_hash hi1 hc1 hh1
  obtain ⟨t2, hrun2, ht2⟩ := run_hash hi2 hc2 hh2
  have hwords : hashWords s1.msgByte s1.mlen.toNat = hashWords s2.msgByte s2.mlen.toNat := by
    rw [← hlen]
    exact hashWords_congr hmsg
  refine ⟨_, t1, t2, hrun1, hlen ▸ hrun2, ht1.goodEnd rfl (s1.idle_iff.1 hi1).1, ht2.goodEnd rfl (s2.idle_iff.1 hi2).1,
    ?_, ?_⟩
  · rw [State.hv, ht1.hashState]
    exact allDefined_defined8 _
  · rw [ht1.hashState, ht2.hashState]
    exact congrArg defined8 hwords

end Sys2Proof.Machine
end

section
/-! Scripts that wait (30_encoding.md R104): a command and its WAIT as a whole, and HASH as a sequence of the other commands
(44_digest_engine.md R209). -/

namespace Sys2Proof.Machine

/-! The HOST's lists and the ENGINE. -/

/-- `s` with other lists at the HOST's side. -/
def State.withLists (s : State) (l : List HostEvent) (r : List PortValue) : State := { s with host := l, results := r }

/-- No micro-operation looks at the HOST's lists. -/
theorem microOp_withLists {p : BitVec 4} {i : Instr} (h : decodePhase p = .ok i) {s t : State}
    (hx : exec i s = .next t) (l : List HostEvent) (r : List PortValue) :
    exec i (s.withLists l r) = .next (t.withLists l r) := by
  have lists {c : Prop} [Decidable c] (u v : State) :
      State.withLists (if c then u else v) l r = if c then u.withLists l r else v.withLists l r :=
    apply_ite (State.withLists · l r) c u v
  rcases decodePhase_cases h with
    ⟨_, rfl⟩ | ⟨_, rfl⟩ | ⟨_, rfl⟩ | ⟨_, rfl⟩ | ⟨_, rfl⟩ | ⟨_, rfl⟩ | ⟨_, rfl⟩ | ⟨_, rfl⟩ <;> cases hx
  · rw [lists]; rfl
  · simp only [lists]; rfl
  · rw [lists]; rfl
  · simp only [lists]; rfl
  · rfl
  · rw [lists]; rfl
  · simp only [lists]; rfl
  · rfl

/-! Runs of any length. -/

/-- Some number of steps leads from `s` to a state with `P`. -/
def Runs (s : State) (P : State → Prop) : Prop := ∃ n, Answers (run n s) P

theorem Runs.done {s : State} {P : State → Prop} (h : P s) : Runs s P := ⟨0, s, rfl, h⟩

theorem Runs.trans {s : State} {P Q : State → Prop} (h : Runs s P) (hQ : ∀ t, P t → Runs t Q) : Runs s Q := by
  obtain ⟨n, t, ht, hP⟩ := h
  obtain ⟨k, u, hu, hend⟩ := hQ t hP
  exact ⟨n + k, u, (run_add n k ht).trans hu, hend⟩

theorem Runs.step {s t : State} {P : State → Prop} (h : step s = .next t) (hP : Runs t P) : Runs s P := by
  obtain ⟨n, u, hu, hend⟩ := hP
  exact ⟨n + 1, u, (run_succ n h).trans hu, hend⟩

theorem Runs.mono {s : State} {P Q : State → Prop} (hQ : ∀ t, P t → Q t) (h : Runs s P) : Runs s Q :=
  h.trans fun t ht => .done (hQ t ht)

/-! A command and its WAIT. -/

/-- The values of reads of STATUS while BUSY = 1. -/
def BusyReads (polls : List PortValue) : Prop := ∀ p ∈ polls, ∃ u : State, u.busy = true ∧ p = ⟨32, u.status⟩

/-- What WAIT leaves when the command ends in `t`: the HOST goes on with `rest`, and has read STATUS while BUSY = 1 some
number of times and then once more. -/
def Waited (t : State) (rest : List HostEvent) (r : List PortValue) (u : State) : Prop :=
  ∃ polls f, BusyReads polls ∧ u = { t with host := rest, results := r ++ polls ++ [⟨32, t.status⟩], fresh := f }

/-- `u` is a state that `k` micro-operations lead to `Q` from, but for the HOST's lists and the counter of free
values. -/
def WatchedLead (Q : State → Prop) (k : Nat) (u : State) : Prop :=
  ∃ t, Leads Q k t ∧ u = { t with host := u.host, results := u.results, fresh := u.fresh }

theorem WatchedLead.step {Q : State → Prop} {k : Nat} {u : State} (h : WatchedLead Q (k + 1) u) :
    u.busy = true ∧ ∃ i, decodePhase u.phase = .ok i ∧
      ∀ x f, Answers (exec i { u with results := x, fresh := f }) (WatchedLead Q k) := by
  obtain ⟨t, ⟨⟨hh, hb, i, hi⟩, hx⟩, hframe⟩ := h
  rw [hframe]
  refine ⟨hb, i, hi, fun x f => ?_⟩
  obtain ⟨v, hv, hlead⟩ := hx f
  rw [step_microOp (by exact hh) (by exact hb) (by exact hi)] at hv
  exact ⟨_, microOp_withLists (s := { t with fresh := f }) hi hv u.host x, v, hlead, rfl⟩

/-- WAIT on a command that `k` micro-operations complete. -/
theorem Leads.wait {Q : State → Prop} (hQ : ∀ t, Q t → t.busy = false) {k : Nat} {s : State} (h : Leads Q k s)
    (rest : List HostEvent) (r : List PortValue) :
    Runs (s.withLists (.wait :: rest) r) fun u => ∃ t, Q t ∧ Waited t rest r u := by
  have hend (u : State) (hu : WatchedLead Q 0 u) : u.busy = false := by
    obtain ⟨t, ht, hframe⟩ := hu
    rw [hframe]
    exact hQ t ht
  obtain ⟨n, u, polls, ⟨t, ht, hframe⟩, hpolls, hrun⟩ :=
    run_wait hend (fun _ _ => WatchedLead.step) k (s.withLists (.wait :: rest) r) ⟨s, h, rfl⟩ rfl
  have hstatus : u.status = t.status := by
    have hb : t.busy = false := hQ t ht
    rw [hframe, State.status_of_notBusy hb, State.status_of_notBusy (by exact hb)]
    rfl
  refine ⟨n, _, hrun, t, ht, polls, u.fresh + 1, hpolls, ?_⟩
  rw [hstatus, hframe]
  rfl

/-- `WR CMD, c; WAIT` for a command whose acceptance writes leave `a`, and which `k` micro-operations complete. -/
theorem runs_command_wait {Q : State → Prop} {k : Nat} {s a : State} {c : BitVec 32} {i : Instr}
    {rest : List HostEvent} (hQ : ∀ t, Q t → t.busy = false) (hh : s.host = .wr 0x00 (c.setWidth 64) :: .wait :: rest)
    (hd : decodeCommand c = .ok i)
    (haccept : exec i (s.setHost (.wait :: rest)) = .next (a.withLists (.wait :: rest) s.results)) (h : Leads Q k a) :
    Runs s fun u => ∃ t, Q t ∧ Waited t rest s.results u :=
  .step ((step_command hh hd).trans haccept) (h.wait hQ rest s.results)

/-! HASH as a sequence of the other commands (R209). -/

/-- The step of INIT (R205). -/
theorem leads_initCommand {s : State} (hh : s.host = []) (hb : s.busy = true) (hp : s.phase = Phase.init)
    (hc : s.cur ≠ Op.hash) :
    Leads (fun u => u = { s with h := defined8 Rom.h0, busy := false, done := true, phase := Phase.idle,
                                 fresh := u.fresh }) 1 s :=
  .microOp (i := .uInit) hh hb (by rw [hp]; rfl) fun f => ⟨_, execUInit_complete (by exact hc), rfl⟩

/-! The four commands under WAIT: the state the HOST goes on from. -/

section
variable {s : State} {rest : List HostEvent} (hi : s.idle = true)
include hi

theorem runs_init_wait (hh : s.host = .wr 0x00 0x00000001#64 :: .wait :: rest) :
    Runs s fun u => u = { s with h := defined8 Rom.h0, cur := Op.init, busy := false, done := true,
                                 phase := Phase.idle, host := rest, results := u.results, fresh := u.fresh } := by
  refine (runs_command_wait (a := (s.setHost []).initAccepted) (c := 1#32) (fun t ht => by rw [ht]) hh rfl
    (execInit_accepted hi) (leads_initCommand rfl rfl rfl (by decide : Op.init ≠ Op.hash))).mono ?_
  rintro _ ⟨t, ht, polls, f, _, rfl⟩
  rw [ht]
  rfl

theorem runs_pad_wait (hc : s.checkLength = none) (hh : s.host = .wr 0x00 0x00000002#64 :: .wait :: rest) :
    Runs s fun u => u = { s with pb := u.pb, pbv := true, plen := BitVec.ofNat 64 (plenOf s.mlen.toNat),
                                 pidx := u.pidx, cur := Op.pad, busy := false, done := true, phase := Phase.idle,
                                 host := rest, results := u.results, fresh := u.fresh } ∧
      ∀ i, u.pb.read i = (pad s.msgByte s.mlen.toNat)[i]? := by
  have hl : (s.setHost []).padAccepted.LengthsChecked := State.padAccepted_checked hc
  refine (runs_command_wait (a := (s.setHost []).padAccepted) (c := 2#32) (fun t ht => by rw [ht.1]) hh rfl
    (execPad_accepted hi hc) (leads_padCommand rfl rfl rfl hl rfl rfl (by decide : Op.pad ≠ Op.hash))).mono ?_
  rintro _ ⟨t, ⟨ht, hpb⟩, polls, f, _, rfl⟩
  refine ⟨?_, hpb⟩
  rw [ht]
  rfl

theorem runs_schedule_wait {x : Nat → Byte} (hc : s.checkBlock = none) (hP : s.plen.toNat ≤ 2 ^ 61 + 64)
    (hx : ∀ j, j < 64 → s.pb.read (64 * s.arg.toNat + j) = some (x j))
    (hh : s.host = .wr 0x00 0x00000003#64 :: .wait :: rest) :
    Runs s fun u => u = { s with w := u.w, blk := u.blk, t := u.t, cur := Op.schedule, busy := false, done := true,
                                 phase := Phase.idle, host := rest, results := u.results, fresh := u.fresh } ∧
      u.WordsAre (schedule x) := by
  have hblock : (s.setHost []).scheduleAccepted.BlockIs x := by
    intro j hj
    have hblk : (s.setHost []).scheduleAccepted.blk.toNat = s.arg.toNat :=
      toNat_blk_of_arg (s.checkBlock_none.1 hc).2 hP
    rw [hblk]
    exact hx j hj
  refine (runs_command_wait (a := (s.setHost []).scheduleAccepted) (c := 3#32) (fun t ht => by rw [ht.1]) hh rfl
    (execSchedule_accepted hi hc)
    (leads_scheduleCommand rfl rfl rfl rfl hblock (by decide : Op.schedule ≠ Op.hash))).mono ?_
  rintro _ ⟨t, ⟨ht, hw⟩, polls, f, _, rfl⟩
  refine ⟨?_, hw⟩
  rw [ht]
  rfl

theorem runs_compress_wait {s0 : Vector Word 8} {w : Nat → Word} (hs : s.h = defined8 s0) (hw : s.WordsAre w)
    (hh : s.host = .wr 0x00 0x00000004#64 :: .wait :: rest) :
    Runs s fun u => u = { s with h := defined8 (compress s0 w), v := defined8 (rounds s0 w 64), t := u.t,
                                 cur := Op.compress, busy := false, done := true, phase := Phase.idle, host := rest,
                                 results := u.results, fresh := u.fresh } := by
  have hc : s.checkOperands = none :=
    s.checkOperands_none.2 ⟨State.hv_of_some fun j => hs ▸ defined8_get s0 j, State.wv_of_some hw⟩
  refine (runs_command_wait (a := (s.setHost []).compressAccepted) (c := 4#32) (fun t ht => by rw [ht.1]) hh rfl
    (execCompress_accepted hi hc)
    (leads_compressCommand rfl rfl hw rfl hs (by decide : Op.compress ≠ Op.hash))).mono ?_
  rintro _ ⟨t, ⟨ht, hsum, hv⟩, polls, f, _, rfl⟩
  rw [← hsum, ← hv, ht]
  rfl

end

/-- `u` is idle after the first `k` blocks of pad(m): PB holds pad(m), H the state after these blocks, and W and V are
defined once there was a block. -/
structure State.BlocksDone (m : Nat → Byte) (L k : Nat) (u : State) : Prop where
  idle : u.idle = true
  done : u.done = true
  buffer : u.pbv = true
  padded : u.plen.toNat = plenOf L
  content : ∀ i, u.pb.read i = (pad m L)[i]?
  hashState : u.h = defined8 (hashBlocks m L k)
  intermediates : 0 < k → u.wv = true ∧ u.vv = true

section
variable {m : Nat → Byte} {L k : Nat} {u : State} {rest : List HostEvent} (h : u.BlocksDone m L k)
include h

/-- `SCHEDULE k; WAIT` puts the schedule of block `k` into W. -/
theorem State.BlocksDone.runs_schedule (hL : L < 2 ^ 61) (hk : k < blocksOf L)
    (hh : u.host = .wr 0x04 (BitVec.ofNat 64 k) :: .wr 0x00 0x00000003#64 :: .wait :: rest) :
    Runs u fun t => t.host = rest ∧ t.BlocksDone m L k ∧ t.WordsAre (schedule (blockOf m L k)) := by
  obtain ⟨hmax, _⟩ := plenOf_fits hL
  have hfit : (BitVec.ofNat 64 k).toNat = k := by
    unfold blocksOf at hk
    rw [BitVec.toNat_ofNat, Nat.mod_eq_of_lt (by omega)]
  have hblock : (BitVec.ofNat 64 k).toNat < u.plen.toNat / 64 := by rw [hfit, h.padded]; exact hk
  have harg := (hostWritesWhenIdle.1 u _ h.idle).2.1 _ hh
  refine .step harg ((runs_schedule_wait (s := { u with host := _, arg := BitVec.ofNat 64 k }) (x := blockOf m L k)
    h.idle ((State.checkBlock_none _).2 ⟨h.buffer, hblock⟩) (h.padded.trans_le hmax) (fun j hj => ?_) rfl).mono
    fun t ⟨ht, hw⟩ => ?_)
  · rw [hfit]
    exact (h.content _).trans (pad_block hk hj)
  · have hwv := State.wv_of_some hw
    rw [ht] at hw hwv ⊢
    exact ⟨rfl, ⟨(State.idle_iff _).2 ⟨(u.idle_iff.1 h.idle).1, rfl⟩, rfl, h.buffer, h.padded, h.content, h.hashState,
      fun hpos => ⟨hwv, (h.intermediates hpos).2⟩⟩, hw⟩

/-- `COMPRESS; WAIT` with that schedule in W takes block `k` into H. -/
theorem State.BlocksDone.runs_compress (hw : u.WordsAre (schedule (blockOf m L k)))
    (hh : u.host = .wr 0x00 0x00000004#64 :: .wait :: rest) :
    Runs u fun t => t.host = rest ∧ t.BlocksDone m L (k + 1) := by
  refine (runs_compress_wait h.idle h.hashState hw hh).mono fun t ht => ?_
  rw [ht]
  exact ⟨rfl, (State.idle_iff _).2 ⟨(u.idle_iff.1 h.idle).1, rfl⟩, rfl, h.buffer, h.padded, h.content, rfl,
    fun _ => ⟨State.wv_of_some hw, allDefined_defined8 _⟩⟩

end

/-- The loop of R209 over the blocks from `k` on. -/
theorem runs_blockLoop {m : Nat → Byte} {L : Nat} (hL : L < 2 ^ 61) (n : Nat) {k : Nat} {u : State}
    (hk : k + n = blocksOf L) (h : u.BlocksDone m L k)
    (hh : u.host = (List.range' k n).flatMap fun j =>
      Script.schedule j ++ [.wait] ++ Script.command .compress ++ [.wait]) :
    Runs u fun t => t.host = [] ∧ t.BlocksDone m L (blocksOf L) := by
  induction n generalizing k u with
  | zero => exact .done ⟨hh, hk ▸ h⟩
  | succ n ih =>
    refine (h.runs_schedule hL (by omega) hh).trans fun t ⟨ht, hdone, hw⟩ => ?_
    exact (hdone.runs_compress hw ht).trans fun t' ⟨ht', hdone'⟩ => ih (by omega) hdone' ht'

/-- Settles O58: the four commands under WAIT, and the loop by induction on the number of blocks. -/
theorem stepwiseHashEqualsHash : Obligations.StepwiseHashEqualsHash := by
  unfold Obligations.StepwiseHashEqualsHash
  intro s hi hc hh
  obtain ⟨hf, _⟩ := s.idle_iff.1 hi
  have hl : s.padAccepted.LengthsChecked := State.padAccepted_checked hc
  have hstart : Runs s fun u => u.host = Script.blockLoop (blocksOf s.mlen.toNat) ∧
      u.BlocksDone s.msgByte s.mlen.toNat 0 := by
    refine (runs_init_wait hi hh).trans fun t ht => ?_
    have hidle : t.idle = true := by rw [ht]; exact (State.idle_iff _).2 ⟨hf, rfl⟩
    have hhost : t.host = .wr 0x00 0x00000002#64 :: .wait :: Script.blockLoop (blocksOf s.mlen.toNat) := by
      rw [ht]
      rfl
    refine (runs_pad_wait hidle (by rw [ht]; exact hc) hhost).mono fun u ⟨hu, hpb⟩ => ?_
    rw [ht] at hu hpb
    rw [hu] at hpb ⊢
    exact ⟨rfl, (State.idle_iff _).2 ⟨hf, rfl⟩, rfl, rfl, hl.padded, hpb, rfl, nofun⟩
  have hall := hstart.trans fun u ⟨hu, hdone⟩ =>
    runs_blockLoop hl.length _ (Nat.zero_add _) hdone (hu.trans (by rw [Script.blockLoop, List.range_eq_range']; rfl))
  obtain ⟨n, t, hrun, hhost, ht⟩ := hall
  obtain ⟨hft, hbt⟩ := t.idle_iff.1 ht.idle
  obtain ⟨hwv, hvv⟩ := ht.intermediates (blocksOf_pos _)
  exact ⟨n, t, hrun, ⟨hhost, hbt, hft, fun _ => ht.done⟩, fun j => by rw [ht.hashState, defined8_get]; rfl, ht.buffer,
    hwv, hvv⟩

end Sys2Proof.Machine
end

section
/-! The script of hash(m) (30_encoding.md R105): its writes, HASH under WAIT, its last read, and that no fault is recorded
on the way. -/

namespace Sys2Proof.Machine

/-! No fault on the way (60_exceptions.md R252, R256). -/

/-- The issue of any word, with what it leaves at the HOST's side and in BUSY. -/
theorem State.writeCmd_issue (s : State) (c : BitVec 32) :
    ∃ k t, s.writeCmd c = .next (s.issue k t) ∧ t.host = s.host ∧ (k = none → t.busy = true) := by
  unfold State.writeCmd
  split
  · rename_i i hi
    rcases decodeCommand_cases hi with rfl | rfl | rfl | rfl | rfl
    · exact ⟨_, _, rfl, rfl, fun _ => rfl⟩
    · exact ⟨_, _, rfl, rfl, fun _ => rfl⟩
    · exact ⟨_, _, rfl, rfl, fun _ => rfl⟩
    · exact ⟨_, _, rfl, rfl, fun _ => rfl⟩
    · exact ⟨_, _, rfl, rfl, fun _ => rfl⟩
  · exact ⟨some .illegalCommand, s, rfl, rfl, nofun⟩

/-- What a script without RESET cannot undo. -/
structure FaultStays (s t : State) : Prop where
  fault : s.fault = true → t.fault = true
  noReset : .reset ∉ t.host

/-- The HOST's list says nothing of the fault that `s` has recorded. -/
theorem FaultStays.of_setHost {s t : State} {l : List HostEvent} (h : FaultStays (s.setHost l) t) : FaultStays s t :=
  ⟨h.fault, h.noReset⟩

theorem FaultStays.whenIdle {s t : State} (hs : .reset ∉ s.host) (ht : .reset ∉ t.host) :
    FaultStays s (s.whenIdle t) := by
  rcases s.whenIdle_cases t with ⟨_, e⟩ | ⟨hf, _, e⟩ | ⟨hi, e⟩ <;> rw [e]
  · exact ⟨id, hs⟩
  · exact ⟨fun _ => rfl, hs⟩
  · exact ⟨fun h => absurd h (by simp [(s.idle_iff.1 hi).1]), ht⟩

theorem FaultStays.issue {s t : State} {k : Option Cause} (hs : .reset ∉ s.host) (ht : .reset ∉ t.host) :
    FaultStays s (s.issue k t) := by
  apply FaultStays.whenIdle hs
  split
  · exact hs
  · exact ht

/-- With no RESET to come, a recorded fault stays, and no RESET comes into the list. -/
theorem step_faultStays {s t : State} (h : step s = .next t) (hr : .reset ∉ s.host) : FaultStays s t := by
  cases step_cases h with
  | @engine l _ hl ht =>
    obtain ⟨u, hu, ho⟩ := engineTurn_outside (s.setHost l)
    cases hu.symm.trans ht
    refine ⟨fun hf => ho.fault.trans hf, ?_⟩
    rw [ho.host]
    rcases hl with ⟨_, rfl⟩ | hl
    · exact List.not_mem_nil
    · exact fun hm => hr (hl ▸ List.mem_cons_of_mem _ hm)
  | @command rest x _ hh ht =>
    obtain ⟨k, u, hu, hhost, _⟩ := (s.setHost rest).writeCmd_issue (x.setWidth 32)
    cases hu.symm.trans ht
    have hrest : .reset ∉ rest := fun hm => hr (hh ▸ List.mem_cons_of_mem _ hm)
    exact (FaultStays.issue (s := s.setHost rest) hrest (hhost ▸ hrest)).of_setHost
  | @write rest _ a hh _ ha _ =>
    have hrest : .reset ∉ rest := fun hm => hr (hh ▸ List.mem_cons_of_mem _ hm)
    exact (FaultStays.whenIdle (s := s.setHost rest) hrest (by rw [ha]; exact hrest)).of_setHost
  | nothing hh => exact ⟨id, fun hm => hr (hh ▸ List.mem_cons_of_mem _ hm)⟩
  | @read rest l e _ hh _ hl =>
    have hrest : .reset ∉ rest := fun hm => hr (hh ▸ List.mem_cons_of_mem _ hm)
    refine ⟨id, ?_⟩
    rcases hl with rfl | ⟨_, _, rfl⟩
    · exact hrest
    · simpa using hrest
  | reset hh => exact absurd (hh ▸ List.mem_cons_self) hr

/-- A run of a script without RESET that ends without a fault has recorded none (R256). -/
theorem safeRun_of_noFault : ∀ {n : Nat} {s t : State}, run n s = .next t → t.fault = false → .reset ∉ s.host →
    SafeRun n s
  | 0, s, _, h, hf, _ => fun k hk => by
    obtain rfl : k = 0 := by omega
    cases h
    exact ⟨s, rfl, hf⟩
  | n + 1, s, _, h, hf, hr => by
    obtain ⟨u, hu, _⟩ := step_total s
    have hstays := step_faultStays hu hr
    have hsafe := safeRun_of_noFault ((run_succ n hu).symm.trans h) hf hstays.noReset
    rintro (_ | k) hk
    · refine ⟨s, rfl, Bool.eq_false_iff.2 fun hs => ?_⟩
      have hu0 := (hsafe 0 (Nat.zero_le n)).of_next (run_zero u)
      exact absurd ((hstays.fault hs).symm.trans hu0) (by decide)
    · rw [run_succ k hu]
      exact hsafe k (by omega)

/-! The message (30_encoding.md R104). -/

/-- The writes of `MSG`: byte `i` of the list is then the MSG byte at `a + i`, and those below `a` are as before. -/
theorem runs_msgBytes (bs : List Byte) {a : Nat} {s : State} {rest : List HostEvent} (hi : s.idle = true)
    (hspace : ∀ i, i < a + bs.length → inSpace s.par.msgBytes i = true)
    (hh : s.host = Script.msgBytes a bs ++ rest) :
    Runs s fun t => t = { s with host := rest, msg := t.msg } ∧ (∀ i, i < a → t.msgByte i = s.msgByte i) ∧
      ∀ i, i < bs.length → t.msgByte (a + i) = bytesOf bs i := by
  induction bs generalizing a s with
  | nil =>
    have hrest : s.host = rest := hh
    exact .done ⟨by rw [← hrest], fun _ _ => rfl, nofun⟩
  | cons b bs ih =>
    rw [List.length_cons] at hspace
    obtain ⟨hwrite, _⟩ := msgWriteThenRead s a b _ hh
    obtain ⟨u, hu, hframe, hself, hother, _⟩ := hwrite (hspace a (by omega)) hi
    have hidle : u.idle = true := by rw [hframe]; exact hi
    have hspace' : ∀ i, i < a + 1 + bs.length → inSpace u.par.msgBytes i = true := fun i hlt => by
      rw [hframe]
      exact hspace i (by omega)
    refine .step hu ((ih hidle hspace' (by rw [hframe]; rfl)).mono fun t ⟨ht, hbelow, hbytes⟩ => ⟨?_, ?_, ?_⟩)
    · rw [ht, hframe]
    · exact fun i hlt => (hbelow i (by omega)).trans (hother i (by omega))
    · rintro (_ | i) hlt
      · exact (hbelow a (by omega)).trans hself
      · rw [Nat.add_comm i 1, ← Nat.add_assoc, hbytes i (Nat.lt_of_succ_lt_succ hlt), Nat.add_comm 1 i]
        rfl

/-- An address below the number of bytes the space holds is in it. -/
theorem inSpace_of_not_exceeds {cap : Option Nat} {n i : Nat} (h : exceeds cap n = false) (hi : i < n) :
    inSpace cap i = true := by
  cases cap with
  | none => rfl
  | some c =>
    simp only [exceeds, decide_eq_false_iff_not] at h
    simp only [inSpace, decide_eq_true_eq]
    omega

/-- `MSG bytes` on an idle engine: MSG and MLEN are the message's. -/
theorem runs_msg {s : State} {bs : List Byte} {rest : List HostEvent} (hi : s.idle = true) (hL : bs.length < 2 ^ 64)
    (hm : exceeds s.par.msgBytes bs.length = false) (hh : s.host = Script.msg bs ++ rest) :
    Runs s fun t => t = { s with host := rest, msg := t.msg, mlen := t.mlen } ∧ t.mlen.toNat = bs.length ∧
      ∀ i, i < bs.length → t.msgByte i = bytesOf bs i := by
  rw [Script.msg, List.append_assoc] at hh
  refine (runs_msgBytes bs hi (fun i hlt => inSpace_of_not_exceeds hm (by omega)) hh).trans fun t ⟨ht, _, hbytes⟩ => ?_
  have hidle : t.idle = true := by rw [ht]; exact hi
  refine .step ((hostWritesWhenIdle.1 t rest hidle).1 _ (by rw [ht]; rfl)) (.done ⟨?_, ?_, fun i hlt => ?_⟩)
  · rw [ht]
  · rw [BitVec.toNat_ofNat, Nat.mod_eq_of_lt hL]
  · rw [← hbytes i hlt, Nat.zero_add]
    rfl

/-! HASH under WAIT, and the reads. -/

/-- STATUS after HASH has completed: DONE and HV. -/
theorem State.Hashed.status {s t : State} (h : s.Hashed t) (hf : s.fault = false) : t.status = 0x0000000a#32 := by
  have hhv : t.hv = true := by rw [State.hv, h.hashState]; exact allDefined_defined8 _
  have hvv : t.vv = false := by rw [h.frame]; exact allDefined_undefined (by decide)
  have hwv : t.wv = false := by rw [h.frame]; exact allDefined_undefined (by decide)
  have hbits : t.busy = false ∧ t.done = true ∧ t.fault = false ∧ t.pbv = false := by
    rw [h.frame]
    exact ⟨rfl, rfl, hf, rfl⟩
  obtain ⟨hb, hd, hf, hp⟩ := hbits
  rw [State.status_of_notBusy hb, hp, hvv, hwv, hhv, hf, hd, hb]
  decide

theorem runs_hash_wait {s : State} {rest : List HostEvent} (hi : s.idle = true) (hc : s.checkLength = none)
    (hh : s.host = .wr 0x00 0x00000005#64 :: .wait :: rest) :
    Runs s fun u => ∃ t, (s.setHost []).hashAccepted.Hashed t ∧ Waited t rest s.results u :=
  runs_command_wait (a := (s.setHost []).hashAccepted) (c := 5#32) (fun t ht => by rw [ht.frame]) hh rfl
    (execHash_accepted hi hc) (leads_hashAccepted rfl hc)

theorem BusyReads.showBusy {polls : List PortValue} (h : BusyReads polls) :
    ∀ p ∈ polls, ∃ x : BitVec 32, p = ⟨32, x⟩ ∧ x.getLsbD 0 = true := by
  intro p hp
  obtain ⟨u, hb, rfl⟩ := h p hp
  exact ⟨_, rfl, (statusLayout u).2.1.trans hb⟩

/-- The script of hash(m), with register `n` read at its end, where `n` shows `digest` for the H that HASH leaves. -/
theorem runs_hashScript {s : State} {bs : List Byte} {n : Nat} {digest : PortValue} (hi : s.idle = true)
    (hL : bs.length < 2 ^ 61) (hm : exceeds s.par.msgBytes bs.length = false)
    (hb : exceeds s.par.pbBytes (plenOf bs.length) = false)
    (hread : ∀ u : State, u.idle = true → (∀ j : Fin 8, u.h[j] = some (hashWords (bytesOf bs) bs.length)[j]) →
      u.readReg n = digest)
    (hh : s.host = Script.msg bs ++ Script.command .hash ++ [.wait, .rd n]) :
    Runs s fun t => t.GoodEnd true ∧ ∃ polls, BusyReads polls ∧
      t.results = s.results ++ polls ++ [⟨32, 0x0000000a#32⟩, digest] := by
  rw [List.append_assoc] at hh
  refine (runs_msg hi (by omega) hm hh).trans fun t ⟨ht, hlen, hbytes⟩ => ?_
  have hidle : t.idle = true := by rw [ht]; exact hi
  have hfault : t.fault = false := (t.idle_iff.1 hidle).1
  have hpar : t.par = s.par := by rw [ht]
  have hc : t.checkLength = none := t.checkLength_none.2 (by rw [hlen, hpar]; exact ⟨hL, hm, hb⟩)
  refine (runs_hash_wait hidle hc (rest := [.rd n]) (by rw [ht]; rfl)).trans ?_
  rintro _ ⟨v, hv, polls, f, hpolls, rfl⟩
  refine .step ((hostReadsChangeNothing _ [] n).1 rfl) (.done ⟨?_, polls, hpolls, ?_⟩)
  · obtain ⟨_, hbusy, hnofault, hdone⟩ := hv.goodEnd rfl hfault
    exact ⟨rfl, hbusy, hnofault, hdone⟩
  · have hwords : hashWords t.msgByte t.mlen.toNat = hashWords (bytesOf bs) bs.length := by
      rw [hlen]
      exact hashWords_congr hbytes
    have hvidle : v.idle = true := by rw [hv.frame]; exact (State.idle_iff _).2 ⟨hfault, rfl⟩
    have hH : v.h = defined8 (hashWords (bytesOf bs) bs.length) := hv.hashState.trans (congrArg defined8 hwords)
    have hresults : t.results = s.results := by rw [ht]
    dsimp only
    rw [hread _ (by exact hvidle) fun j => by rw [hH, defined8_get], hv.status hfault, hresults, List.append_assoc]
    rfl

theorem reset_not_mem_msgBytes (bs : List Byte) (a : Nat) : .reset ∉ Script.msgBytes a bs := by
  induction bs generalizing a with
  | nil => exact List.not_mem_nil
  | cons b bs ih => simp [Script.msgBytes, ih]

theorem reset_not_mem_hashScript (bs : List Byte) (n : Nat) :
    .reset ∉ Script.msg bs ++ Script.command .hash ++ [.wait, .rd n] := by
  simp [Script.msg, Script.command, encode, reset_not_mem_msgBytes]

/-- Settles O59: the script's run, whose last read is of DIGEST or HEX; no fault is recorded on the way, as none is
there at the end. -/
theorem hashScriptReadsDigest : Obligations.HashScriptReadsDigest := by
  unfold Obligations.HashScriptReadsDigest
  intro s bs hi hL hm hb d endsReading
  have reading {n : Nat} {digest : PortValue} (hh : s.host = Script.msg bs ++ Script.command .hash ++ [.wait, .rd n])
      (hread : ∀ u : State, u.idle = true → (∀ j : Fin 8, u.h[j] = some d[j]) → u.readReg n = digest) :
      endsReading digest := by
    obtain ⟨k, t, hrun, hgood, polls, hpolls, hresults⟩ := runs_hashScript hi hL hm hb hread hh
    refine ⟨k, t, polls, hrun, safeRun_of_noFault hrun hgood.noFault ?_, hgood, hresults, hpolls.showBusy⟩
    rw [hh]
    exact reset_not_mem_hashScript bs n
  exact ⟨fun hh => reading hh fun u hu hd => (State.readReg_views hu hd).1,
    fun hh => reading hh fun u hu hd => (State.readReg_views hu hd).2⟩

end Sys2Proof.Machine
end

section
/-! The sequencer: its transition table (44_digest_engine.md R212), and that every accepted command completes (R218). -/

namespace Sys2Proof.Machine

/-! The rows of the table, one micro-operation at a time. -/

/-- In a busy state PHASE selects a micro-operation (30_encoding.md R95). -/
theorem State.Inv.microOp_selected {s : State} (h : s.Inv) (hb : s.busy = true) : ∃ i, decodePhase s.phase = .ok i := by
  obtain ⟨hmin, hmax⟩ := h.busyPhase.1 hb
  cases hd : decodePhase s.phase with
  | ok i => exact ⟨i, rfl⟩
  | error e =>
    have decoded : ∀ p : BitVec 4, 1 ≤ p.toNat → p.toNat ≤ 8 → (decodePhase p).isOk = true := by decide
    have hok := decoded s.phase hmin hmax
    rw [hd] at hok
    cases hok

section
variable {s : State} (h : s.Inv)
include h

theorem execUInit_tableRow (hp : s.phase = Phase.init) : Answers (exec .uInit s) (TableRow s) := by
  have hb := h.busy_of_phase hp (by decide)
  rcases h.inInit hp with hc | ⟨hc, _⟩
  · exact ⟨_, execUInit_complete (by rw [hc]; decide), by simp [TableRow, State.completedFrom, hp, hc]⟩
  · exact ⟨_, execUInit_hash hc, by simp [TableRow, State.seqIs, hp, hc, hb]⟩

theorem execUPadbyte_tableRow (hp : s.phase = Phase.padbyte) : Answers (exec .uPadbyte s) (TableRow s) := by
  have hb := h.busy_of_phase hp (by decide)
  obtain ⟨_, hi, _, _, hc⟩ := h.inPadbyte hp
  by_cases hlt : s.pidx.toNat < s.plen.toNat - 1
  · exact ⟨_, execUPadbyte_next hlt, by simp [TableRow, State.seqIs, hp, hb, hlt, toNat_pidx_succ hlt]⟩
  have hlast : s.pidx.toNat = s.plen.toNat - 1 := by omega
  rcases hc with hc | ⟨hc, _⟩
  · exact ⟨_, execUPadbyte_last hlt (by rw [hc]; decide), by simp [TableRow, State.completedFrom, hp, hlast, hc]⟩
  · exact ⟨_, execUPadbyte_last_hash hlt hc, by simp [TableRow, State.seqIs, hp, hb, hlast, hc]⟩

theorem execULoadw_tableRow (hp : s.phase = Phase.loadw) : Answers (exec .uLoadw s) (TableRow s) := by
  have hb := h.busy_of_phase hp (by decide)
  obtain ⟨_, ht, _⟩ := h.inLoadw hp
  have hnext : (s.t + 1#6).toNat = s.t.toNat + 1 := toNat_t_succ (by omega)
  by_cases h15 : s.t.toNat = 15
  · exact ⟨_, execULoadw_last h15, by simp [TableRow, State.seqIs, hp, hb, hnext, h15, -BitVec.toNat_add]⟩
  · have hlt : s.t.toNat < 15 := by omega
    exact ⟨_, execULoadw_next h15, by simp [TableRow, State.seqIs, hp, hb, hnext, hlt, -BitVec.toNat_add]⟩

theorem execUExpand_tableRow (hp : s.phase = Phase.expand) : Answers (exec .uExpand s) (TableRow s) := by
  have hb := h.busy_of_phase hp (by decide)
  obtain ⟨_, _, _, hc⟩ := h.inExpand hp
  by_cases hlt : s.t.toNat < 63
  · have hnext : (s.t + 1#6).toNat = s.t.toNat + 1 := toNat_t_succ hlt
    exact ⟨_, execUExpand_next hlt, by simp [TableRow, State.seqIs, hp, hb, hlt, hnext, -BitVec.toNat_add]⟩
  have hlast : s.t.toNat = 63 := by have := s.t.isLt; omega
  rcases hc with hc | ⟨hc, _⟩
  · exact ⟨_, execUExpand_last hlt (by rw [hc]; decide), by simp [TableRow, State.completedFrom, hp, hlast, hc]⟩
  · exact ⟨_, execUExpand_last_hash hlt hc, by simp [TableRow, State.seqIs, hp, hb, hlast, hc]⟩

theorem execULoadv_tableRow (hp : s.phase = Phase.loadv) : Answers (exec .uLoadv s) (TableRow s) := by
  have hb := h.busy_of_phase hp (by decide)
  exact ⟨_, execULoadv_eq s, by simp [TableRow, State.seqIs, hp, hb]⟩

theorem execURound_tableRow (hp : s.phase = Phase.round) : Answers (exec .uRound s) (TableRow s) := by
  have hb := h.busy_of_phase hp (by decide)
  by_cases hlt : s.t.toNat < 63
  · have hnext : (s.t + 1#6).toNat = s.t.toNat + 1 := toNat_t_succ hlt
    exact ⟨_, execURound_next hlt, by simp [TableRow, State.seqIs, hp, hb, hlt, hnext, -BitVec.toNat_add]⟩
  · have hlast : s.t.toNat = 63 := by have := s.t.isLt; omega
    exact ⟨_, execURound_last hlt, by simp [TableRow, State.seqIs, hp, hb, hlast]⟩

theorem execUFold_tableRow (hp : s.phase = Phase.fold) : Answers (exec .uFold s) (TableRow s) := by
  have hb := h.busy_of_phase hp (by decide)
  obtain ⟨_, _, _, hc⟩ := h.inFold hp
  rcases hc with hc | ⟨hc, hblk⟩
  · exact ⟨_, execUFold_complete (by rw [hc]; decide), by simp [TableRow, State.completedFrom, hp, hc]⟩
  by_cases hlast : s.blk.toNat + 1 = s.plen.toNat / 64
  · exact ⟨_, execUFold_lastBlock hc hlast, by simp [TableRow, State.seqIs, hp, hb, hc, hlast]⟩
  · have hlt : s.blk.toNat + 1 < s.plen.toNat / 64 := Nat.lt_of_le_of_ne hblk.inRange hlast
    have hnext : (s.blk + 1#56).toNat = s.blk.toNat + 1 := toNat_blk_succ hlt h.plen_le
    exact ⟨_, execUFold_nextBlock hc hlast, by simp [TableRow, State.seqIs, hp, hb, hc, hlt, hnext, -BitVec.toNat_add]⟩

theorem execUDiscard_tableRow (hp : s.phase = Phase.discard) : Answers (exec .uDiscard s) (TableRow s) := by
  obtain ⟨_, hc⟩ := h.inDiscard hp
  exact ⟨_, execUDiscard_eq s, by simp [TableRow, State.completedFrom, hp, hc]⟩

/-- Every ENGINE step of a busy engine takes a row. -/
theorem engineTurn_tableRow (hb : s.busy = true) : Answers s.engineTurn (TableRow s) := by
  obtain ⟨i, hi⟩ := h.microOp_selected hb
  rw [State.engineTurn_op hb hi]
  rcases decodePhase_cases hi with
    ⟨hp, rfl⟩ | ⟨hp, rfl⟩ | ⟨hp, rfl⟩ | ⟨hp, rfl⟩ | ⟨hp, rfl⟩ | ⟨hp, rfl⟩ | ⟨hp, rfl⟩ | ⟨hp, rfl⟩
  · exact execUInit_tableRow h hp
  · exact execUPadbyte_tableRow h hp
  · exact execULoadw_tableRow h hp
  · exact execUExpand_tableRow h hp
  · exact execULoadv_tableRow h hp
  · exact execURound_tableRow h hp
  · exact execUFold_tableRow h hp
  · exact execUDiscard_tableRow h hp

end

/-! The acceptances, and every other change of PHASE. -/

/-- The five acceptances take their rows. -/
theorem acceptances_follow_table {s : State} (h : s.Inv) (hi : s.idle = true) :
    let b := s.blk.toNat; let k := s.t.toNat; let x := s.pidx.toNat
    Answers (exec .init s) (fun t => t.cur = 1 ∧ t.seqIs Phase.init b k x) ∧
    (s.checkLength = none → Answers (exec .pad s) fun t => t.cur = 2 ∧ t.seqIs Phase.padbyte b k 0) ∧
    (s.checkBlock = none → Answers (exec .schedule s) fun t => t.cur = 3 ∧ t.seqIs Phase.loadw s.arg.toNat 0 x) ∧
    (s.checkOperands = none → Answers (exec .compress s) fun t => t.cur = 4 ∧ t.seqIs Phase.loadv b k x) ∧
    (s.checkLength = none → Answers (exec .hash s) fun t => t.cur = 5 ∧ t.seqIs Phase.init b k x) := by
  refine ⟨⟨_, execInit_accepted hi, rfl, ⟨rfl, rfl, rfl, rfl, rfl⟩⟩, fun hc => ?pad, fun hc => ?schedule,
    fun hc => ?compress, fun hc => ?hash⟩
  case pad => exact ⟨_, execPad_accepted hi hc, rfl, ⟨rfl, rfl, rfl, rfl, rfl⟩⟩
  case schedule =>
    have hblk := toNat_blk_of_arg (s.checkBlock_none.1 hc).2 h.plen_le
    exact ⟨_, execSchedule_accepted hi hc, rfl, ⟨rfl, hblk, rfl, rfl, rfl⟩⟩
  case compress => exact ⟨_, execCompress_accepted hi hc, rfl, ⟨rfl, rfl, rfl, rfl, rfl⟩⟩
  case hash => exact ⟨_, execHash_accepted hi hc, rfl, ⟨rfl, rfl, rfl, rfl, rfl⟩⟩

/-- Everything a word written to CMD can do to PHASE: nothing, a fault, or an acceptance on an idle engine. -/
theorem State.writeCmd_phase (s : State) (c : BitVec 32) :
    Answers (s.writeCmd c) fun t => t.phase = s.phase ∨ (t.fault = true ∧ t.phase = Phase.faulted) ∨
      (s.idle = true ∧ t.busy = true) := by
  obtain ⟨k, a, ha, _, hbusy⟩ := s.writeCmd_issue c
  refine ⟨_, ha, ?_⟩
  rcases s.issue_cases k a with ⟨_, e⟩ | ⟨_, _, e⟩ | ⟨_, _, _, e⟩ | ⟨hi, hk, e⟩ <;> rw [e]
  · exact .inl rfl
  · exact .inr (.inl ⟨rfl, rfl⟩)
  · exact .inr (.inl ⟨rfl, rfl⟩)
  · exact .inr (.inr ⟨hi, hbusy hk⟩)

/-- No step changes PHASE but by a row, an acceptance through a write to CMD, a fault, or RESET. -/
theorem step_phase {s t : State} (h : s.Inv) (hst : step s = .next t) :
    t.phase = s.phase ∨ (s.busy = true ∧ TableRow s t) ∨
      (s.idle = true ∧ t.busy = true ∧ ∃ x rest, s.host = .wr 0x00 x :: rest) ∨
      (t.fault = true ∧ t.phase = Phase.faulted) ∨ (∃ rest, s.host = .reset :: rest) := by
  cases step_cases hst with
  | @engine l _ _ ht =>
    cases hb : s.busy
    · cases (State.engineTurn_idle (s := s.setHost l) hb).symm.trans ht
      exact .inl rfl
    · exact .inr (.inl ⟨rfl, (engineTurn_tableRow (h.setHost l) hb).of_next ht⟩)
  | @command rest x _ hh ht =>
    rcases ((s.setHost rest).writeCmd_phase _).of_next ht with e | e | ⟨hi, hb⟩
    · exact .inl e
    · exact .inr (.inr (.inr (.inl e)))
    · exact .inr (.inr (.inl ⟨hi, hb, x, rest, hh⟩))
  | @write rest _ a _ _ ha _ =>
    rcases (s.setHost rest).whenIdle_cases a with ⟨_, e⟩ | ⟨_, _, e⟩ | ⟨_, e⟩ <;> rw [e]
    · exact .inl rfl
    · exact .inr (.inr (.inr (.inl ⟨rfl, rfl⟩)))
    · exact .inl (by rw [ha]; rfl)
  | nothing => exact .inl rfl
  | read => exact .inl rfl
  | reset hh => exact .inr (.inr (.inr (.inr ⟨_, hh⟩)))

/-- Settles O51: the rows of the ENGINE, the five acceptances, and the ways a step can change PHASE; a faulted engine is
neither busy nor idle, so that of these only RESET leaves FAULTED. -/
theorem sequencerFollowsTable : Obligations.SequencerFollowsTable := by
  unfold Obligations.SequencerFollowsTable
  refine ⟨fun s => engineTurn_tableRow, fun s => acceptances_follow_table, fun s t h hst hp hr => ?_,
    fun s t => step_phase⟩
  have hf := h.faultPhase.2 hp
  rcases step_phase h hst with e | ⟨hb, _⟩ | ⟨hi, _⟩ | ⟨_, e⟩ | ⟨rest, hh⟩
  · exact e.trans hp
  · exact absurd (hf.symm.trans (h.busyFault hb)) (by decide)
  · exact absurd (hf.symm.trans (s.idle_iff.1 hi).1) (by decide)
  · exact e
  · exact absurd hh (hr rest)

/-! Completion (R218): a bound on the number of steps left, which every row lowers. -/

/-- A bound on the number of steps a command can still take in the phase with code `p`, with PLEN = `P` and the
counters `b`, `k` and `x`: 256 for every block still to come. -/
def stepsLeft (p P b k x : Nat) : Nat :=
  match p with
  | 1 => 256 * (P / 64) + 150 + P
  | 2 => 256 * (P / 64) + 149 + (P - 1 - x)
  | 3 => 256 * (P / 64 - b) + 132 + (15 - k)
  | 4 => 256 * (P / 64 - b) + 68 + (63 - k)
  | 5 => 256 * (P / 64 - b) + 67
  | 6 => 256 * (P / 64 - b) + 3 + (63 - k)
  | 7 => 256 * (P / 64 - b) + 2
  | 8 => 1
  | _ => 0

def State.stepsLeft (s : State) : Nat :=
  Machine.stepsLeft s.phase.toNat s.plen.toNat s.blk.toNat s.t.toNat s.pidx.toNat

/-- A row that goes on lowers the bound where its counters do. -/
theorem State.seqIs.lowers {s t : State} {p q : BitVec 4} {b k x : Nat} (ht : t.seqIs q b k x) (hp : s.phase = p)
    (hplen : t.plen = s.plen)
    (hlt : Machine.stepsLeft q.toNat s.plen.toNat b k x <
      Machine.stepsLeft p.toNat s.plen.toNat s.blk.toNat s.t.toNat s.pidx.toNat) :
    t.busy = true ∧ t.stepsLeft < s.stepsLeft := by
  obtain ⟨hq, hb, hk, hx, hbusy⟩ := ht
  refine ⟨hbusy, ?_⟩
  rw [State.stepsLeft, State.stepsLeft, hp, hq, hb, hk, hx, hplen]
  exact hlt

/-- A row completes the command or lowers the bound. -/
theorem TableRow.completes_or_lowers {s t : State} (h : TableRow s t) (hplen : t.plen = s.plen) :
    t.completedFrom s ∨ (t.busy = true ∧ t.stepsLeft < s.stepsLeft) := by
  obtain ⟨_, h⟩ := h
  rcases h with ⟨_, _, hdone⟩ | ⟨hp, _, ht⟩ | ⟨hp, _, ht⟩ | ⟨_, _, _, hdone⟩ | ⟨hp, _, _, ht⟩ | ⟨hp, _, ht⟩ |
    ⟨hp, _, ht⟩ | ⟨hp, _, ht⟩ | ⟨_, _, _, hdone⟩ | ⟨hp, _, _, ht⟩ | ⟨hp, ht⟩ | ⟨hp, _, ht⟩ | ⟨hp, _, ht⟩ |
    ⟨_, _, hdone⟩ | ⟨hp, _, _, ht⟩ | ⟨hp, _, _, ht⟩ | ⟨_, _, hdone⟩
  any_goals (left; assumption)
  all_goals
    refine .inr (ht.lowers hp hplen ?_)
    simp only [Machine.stepsLeft, BitVec.toNat_ofNat, Nat.reducePow, Nat.reduceMod]
    omega

/-- Settles O52: by induction on the bound, as the invariant is kept and every ENGINE step takes a row. -/
theorem commandsComplete : Obligations.CommandsComplete := by
  unfold Obligations.CommandsComplete
  intro s h hb hh
  induction hn : s.stepsLeft using Nat.strong_induction_on generalizing s with
  | _ n ih =>
    obtain ⟨t, ht, hrow⟩ := engineTurn_tableRow h hb
    obtain ⟨t', ht', ho⟩ := engineTurn_outside s
    cases ht.symm.trans ht'
    have hst : step s = .next t := (step_nil hh).trans ht
    rcases hrow.completes_or_lowers ho.plen with ⟨hp, hbusy, hdone, _⟩ | ⟨hbusy, hlt⟩
    · exact ⟨1, t, run_succ 0 hst, hbusy, hdone, ho.fault.trans (h.busyFault hb), hp⟩
    · obtain ⟨k, u, hu, hend⟩ := ih _ (hn ▸ hlt) t (invariantKept s t h hst) hbusy (ho.host.trans hh) rfl
      exact ⟨k + 1, u, (run_succ k hst).trans hu, hend⟩

end Sys2Proof.Machine
end

section
/-! The hexadecimal string (44_digest_engine.md R201, 30_encoding.md R102) and the HEX view (10_state.md R39). -/

namespace Sys2Proof.Machine

/-! Character codes. -/

theorem hexCode_toNat (v : BitVec 4) :
    (v.toNat < 10 → (hexCode v).toNat = 0x30 + v.toNat) ∧
      (10 ≤ v.toNat → (hexCode v).toNat = 0x61 + (v.toNat - 10)) := by
  revert v
  decide

theorem hexCode_range (v : BitVec 4) :
    (0x30 ≤ (hexCode v).toNat ∧ (hexCode v).toNat ≤ 0x39) ∨ (0x61 ≤ (hexCode v).toNat ∧ (hexCode v).toNat ≤ 0x66) := by
  have hv := v.isLt
  obtain ⟨hdigit, hletter⟩ := hexCode_toNat v
  by_cases h : v.toNat < 10
  · rw [hdigit h]
    omega
  · rw [hletter (by omega)]
    omega

/-! The characters of a list of bytes, two for each. -/

theorem hexByte_flatMap_length (bs : List Byte) : (bs.flatMap hexByte).length = 2 * bs.length := by
  induction bs with
  | nil => rfl
  | cons b bs ih =>
    rw [List.flatMap_cons, List.length_append, ih, List.length_cons, Nat.mul_succ, Nat.add_comm]
    rfl

/-- The high nibble of byte `n` is character `2n`, the low one character `2n + 1`. -/
theorem hexByte_flatMap_get {bs : List Byte} {n : Nat} {b : Byte} (h : bs[n]? = some b) :
    (bs.flatMap hexByte)[2 * n]? = some (hexCode (b.extractLsb' 4 4)) ∧
      (bs.flatMap hexByte)[2 * n + 1]? = some (hexCode (b.extractLsb' 0 4)) := by
  induction bs generalizing n with
  | nil => cases h
  | cons c bs ih =>
    cases n with
    | zero =>
      cases h
      exact ⟨rfl, rfl⟩
    | succ n => exact ih h

theorem mem_hexCodes {s : Vector Word 8} {c : Byte} (h : c ∈ hexCodes s) : ∃ v, c = hexCode v := by
  obtain ⟨b, _, hc⟩ := List.mem_flatMap.1 h
  rcases List.mem_pair.1 hc with rfl | rfl
  · exact ⟨_, rfl⟩
  · exact ⟨_, rfl⟩

theorem hexCodes_length (s : Vector Word 8) : (hexCodes s).length = 64 := hexByte_flatMap_length (digestBytes s)

/-! Bytes put together as a number (R39), and taken out of it again. -/

theorem bytesToNat_append_singleton (bs : List Byte) (b : Byte) :
    bytesToNat (bs ++ [b]) = bytesToNat bs * 256 + b.toNat := by
  rw [bytesToNat, List.foldl_append]
  rfl

theorem bytesToNat_lt (bs : List Byte) : bytesToNat bs < 256 ^ bs.length := by
  induction bs using List.reverseRecOn with
  | nil => decide
  | append_singleton bs c ih =>
    have hc := c.isLt
    rw [bytesToNat_append_singleton, List.length_append, List.length_singleton, Nat.pow_succ]
    omega

/-- Byte `k` of `n` bytes stands above the `n - 1 - k` bytes after it. -/
theorem bytesToNat_byte (bs : List Byte) {k : Nat} {b : Byte} (h : bs[k]? = some b) :
    bytesToNat bs / 256 ^ (bs.length - 1 - k) % 256 = b.toNat := by
  induction bs using List.reverseRecOn with
  | nil => cases h
  | append_singleton bs c ih =>
    have hc := c.isLt
    rw [bytesToNat_append_singleton, List.length_append, List.length_singleton, Nat.add_sub_cancel]
    obtain ⟨hk, _⟩ := List.getElem?_eq_some_iff.1 h
    rw [List.length_append, List.length_singleton] at hk
    by_cases hlast : k = bs.length
    · subst hlast
      rw [List.getElem?_concat_length] at h
      cases h
      rw [Nat.sub_self, Nat.pow_zero]
      omega
    · have hlt : k < bs.length := by omega
      rw [List.getElem?_append_left hlt] at h
      have hpow : bs.length - k = (bs.length - 1 - k) + 1 := by omega
      rw [hpow, Nat.pow_succ', ← Nat.div_div_eq_div_mul]
      have hdiv : (bytesToNat bs * 256 + c.toNat) / 256 = bytesToNat bs := by omega
      rw [hdiv]
      exact ih h

/-- The number fits as many bits as the bytes have. -/
theorem ofNat_bytesToNat {w : Nat} {bs : List Byte} (hw : 8 * bs.length = w) :
    (BitVec.ofNat w (bytesToNat bs)).toNat = bytesToNat bs := by
  subst hw
  rw [BitVec.toNat_ofNat, Nat.pow_mul]
  exact Nat.mod_eq_of_lt (bytesToNat_lt bs)

theorem hexView_toNat (s : Vector Word 8) : (hexView s).toNat = bytesToNat (hexCodes s) :=
  ofNat_bytesToNat (by rw [hexCodes_length])

/-- Character `k` is byte `k` of the HEX view from the most significant. -/
theorem hexView_byte {s : Vector Word 8} {k : Nat} {c : Byte} (h : (hexCodes s)[k]? = some c) :
    (hexView s).extractLsb' (8 * (63 - k)) 8 = c := by
  have hbyte := bytesToNat_byte (hexCodes s) h
  obtain ⟨hk, _⟩ := List.getElem?_eq_some_iff.1 h
  rw [hexCodes_length] at hk hbyte
  apply BitVec.eq_of_toNat_eq
  rw [extract8_toNat, hexView_toNat, Nat.pow_mul]
  exact hbyte

/-- Settles O47: the characters two by two, and the HEX view as the number their codes make. -/
theorem hexStringWellFormed : Obligations.HexStringWellFormed := by
  unfold Obligations.HexStringWellFormed
  intro s
  refine ⟨hexCodes_length s, hexCode_toNat, fun c hc => ?_, fun n b => hexByte_flatMap_get, fun k c => hexView_byte⟩
  obtain ⟨v, rfl⟩ := mem_hexCodes hc
  exact hexCode_range v

end Sys2Proof.Machine
end

section
/-! The faults (60_exceptions.md): fault entry (R250), who can raise which fault (R240, R241, R243), the acceptance checks
(R244 to R249), and what a recorded fault withstands (R252, R256). -/

namespace Sys2Proof.Machine

/-! Fault entry (R242, R250). -/

theorem Cause.code_injective : Function.Injective Cause.code := by
  intro c d
  cases c <;> cases d <;> decide

theorem State.raise_faultEntered (s : State) (c : Cause) : FaultEntered s (s.raise c) c.code.toNat where
  status := ⟨rfl, rfl, rfl, rfl⟩
  phase := rfl
  undefH j := Vector.getElem_replicate j.isLt
  undefV j := Vector.getElem_replicate j.isLt
  undefW i := Vector.getElem_replicate i.isLt
  undefPB := ⟨rfl, fun _ => rfl⟩
  kept := ⟨rfl, rfl, rfl, rfl, rfl, rfl, rfl⟩
  msgKept _ := rfl
  outside := ⟨rfl, rfl, rfl, rfl, rfl⟩

/-- A step or a command that takes the fault enters it. -/
theorem Answers.of_raise {o : Host.Outcome State Fault Refusal} {s : State} {c : Cause} (h : o = .next (s.raise c)) :
    Answers o fun t => FaultEntered s t c.code.toNat :=
  ⟨_, h, s.raise_faultEntered c⟩

/-! What one write can record (R240). -/

theorem State.issue_busy {s : State} {check : Option Cause} (t : State) (hf : s.fault = false) (hb : s.busy = true) :
    s.issue check t = s.raise .busyViolation := s.whenIdle_busy _ hf hb

theorem State.issue_faulted {s : State} {check : Option Cause} (t : State) (hf : s.fault = true) :
    s.issue check t = s := s.whenIdle_faulted _ hf

/-- A write that needs an idle engine records no fault but BusyViolation. -/
theorem State.whenIdle_records {s t : State} (hf : s.fault = false) (ht : t.fault = s.fault)
    (h : (s.whenIdle t).fault = true) : s.busy = true ∧ s.whenIdle t = s.raise .busyViolation := by
  rcases s.whenIdle_cases t with ⟨hs, _⟩ | ⟨_, hb, e⟩ | ⟨_, e⟩
  · exact absurd (hs.symm.trans hf) (by decide)
  · exact ⟨hb, e⟩
  · rw [e, ht, hf] at h
    exact absurd h (by decide)

/-- The issue of a command records BusyViolation while busy, and the outcome of its checks while idle. -/
theorem State.issue_records {s t : State} {check : Option Cause} (hf : s.fault = false) (ht : t.fault = s.fault)
    (h : (s.issue check t).fault = true) :
    (s.busy = true ∧ s.issue check t = s.raise .busyViolation) ∨
      (s.busy = false ∧ ∃ c, check = some c ∧ s.issue check t = s.raise c) := by
  rcases s.issue_cases check t with ⟨hs, _⟩ | ⟨_, hb, e⟩ | ⟨hi, c, hc, e⟩ | ⟨_, _, e⟩
  · exact absurd (hs.symm.trans hf) (by decide)
  · exact .inl ⟨hb, e⟩
  · exact .inr ⟨(s.idle_iff.1 hi).2, c, hc, e⟩
  · rw [e, ht, hf] at h
    exact absurd h (by decide)

/-- A cause that is not the outcome of the checks is in FCAUSE after the issue only if it was there before. -/
theorem State.issue_fcause_eq {s t : State} {check : Option Cause} {c : Cause} (hi : s.idle = true)
    (ht : t.fcause = s.fcause) (hc : check ≠ some c) (h : (s.issue check t).fcause = c.code) : s.fcause = c.code := by
  cases check with
  | none =>
    rw [State.issue_accepted t hi rfl] at h
    exact ht.symm.trans h
  | some d =>
    rw [State.issue_refused t hi rfl] at h
    exact absurd (congrArg some (Cause.code_injective h)) hc

/-- Settles O11: of the ways a step can go, only a word written to CMD and a write that needs an idle engine record a
fault. -/
theorem faultsComeFromHostWrites : Obligations.FaultsComeFromHostWrites := by
  unfold Obligations.FaultsComeFromHostWrites
  intro s t hst hf ht
  have hrange := Cause.code_range .busyViolation
  cases step_cases hst with
  | @engine l _ _ h =>
    obtain ⟨u, hu, ho⟩ := engineTurn_outside (s.setHost l)
    cases hu.symm.trans h
    exact absurd (ht.symm.trans (ho.fault.trans hf)) (by decide)
  | @command rest x _ hh h =>
    obtain ⟨k, u, hu, hk, hufault, _⟩ := (s.setHost rest).writeCmd_cases (x.setWidth 32)
    cases hu.symm.trans h
    rcases State.issue_records (s := s.setHost rest) hf hufault ht with ⟨hb, e⟩ | ⟨hb, c, hc, e⟩ <;> rw [e]
    · exact ⟨hrange.1, hrange.2, fun _ => ⟨hb, rest, .inl ⟨_, _, hh⟩⟩, fun h1 => absurd rfl h1⟩
    · refine ⟨c.code_range.1, c.code_range.2, fun h1 => ?_, fun _ => ⟨hb, x, rest, hh⟩⟩
      exact absurd (hc.trans (congrArg some (c.code_eq_one.1 h1))) hk
  | @write rest e a hh he ha _ =>
    have hafault : a.fault = s.fault := by rw [ha]; rfl
    obtain ⟨hb, hraise⟩ := State.whenIdle_records (s := s.setHost rest) hf hafault ht
    rw [hraise]
    refine ⟨hrange.1, hrange.2, fun _ => ⟨hb, rest, ?_⟩, fun h1 => absurd rfl h1⟩
    rcases he with ⟨n, x, _, rfl⟩ | ⟨k, b, rfl⟩
    · exact .inl ⟨n, x, hh⟩
    · exact .inr ⟨k, b, hh⟩
  | nothing => exact absurd (ht.symm.trans hf) (by decide)
  | read => exact absurd (ht.symm.trans hf) (by decide)
  | reset => exact absurd ht Bool.false_ne_true

/-- Settles O14: no micro-operation touches FAULT or FCAUSE. -/
theorem microOpsNeverFault : Obligations.MicroOpsNeverFault := by
  unfold Obligations.MicroOpsNeverFault
  intro p i s hp
  obtain ⟨t, ht, ho⟩ := microOp_outside hp s
  exact ⟨t, ht, ho.fault, ho.fcause⟩

/-! BusyViolation (R243). -/

theorem State.writeReg_busy {s : State} {n : Nat} (x : BitVec 64) (hf : s.fault = false) (hb : s.busy = true)
    (hn : n = 0x00 ∨ n = 0x03 ∨ n = 0x04 ∨ (0x10 ≤ n ∧ n < 0x18) ∨ (0x40 ≤ n ∧ n < 0x80)) :
    s.writeReg n x = .next (s.raise .busyViolation) := by
  rcases s.writeReg_cases n x with ⟨_, e⟩ | ⟨_, t, e, _⟩ | ⟨hnot, _⟩
  · obtain ⟨k, t, hk, _⟩ := s.writeCmd_cases (x.setWidth 32)
    rw [e, hk, State.issue_busy t hf hb]
  · rw [e, State.whenIdle_busy t hf hb]
  · omega

theorem State.writeMsg_busy {s : State} {a : Nat} (b : Byte) (hs : inSpace s.par.msgBytes a = true)
    (hf : s.fault = false) (hb : s.busy = true) : s.writeMsg a b = s.raise .busyViolation := by
  rw [State.writeMsg, if_pos hs, State.whenIdle_busy _ hf hb]

/-- Settles O7: each of the writes raises BusyViolation, and a read only records its value. -/
theorem busyWriteFaults : Obligations.BusyWriteFaults := by
  unfold Obligations.BusyWriteFaults
  intro s e rest hh hb hf
  refine ⟨?writes, ?reads⟩
  case writes =>
    rintro (⟨n, x, rfl, hn⟩ | ⟨a, b, rfl, hs⟩)
    · exact Answers.of_raise ((step_cons hh).trans (State.writeReg_busy (s := s.setHost rest) x hf hb hn))
    · exact Answers.of_raise ((step_cons hh).trans
        (congrArg Host.Outcome.next (State.writeMsg_busy (s := s.setHost rest) b hs hf hb)))
  case reads =>
    rintro ⟨n, rfl | rfl | rfl⟩ <;> exact ⟨_, step_cons hh, hf, hb, rfl⟩

/-! IllegalCommand (R244). -/

theorem State.writeCmd_illegal {s : State} {c : BitVec 32} (hi : s.idle = true)
    (hc : decodeCommand c = .error .illegalCommand) : s.writeCmd c = .next (s.raise .illegalCommand) := by
  rw [State.writeCmd, hc]
  exact congrArg Host.Outcome.next (State.whenIdle_idle _ hi)

/-- A word written to CMD moves over the port whole (10_state.md R30). -/
theorem step_writeCmd {s : State} {c : BitVec 32} {rest : List HostEvent}
    (hh : s.host = .wr 0x00 (c.setWidth 64) :: rest) : step s = (s.setHost rest).writeCmd c := by
  have hc : (c.setWidth 64).setWidth 32 = c := by
    rw [BitVec.setWidth_setWidth_of_le c (by decide), BitVec.setWidth_eq]
  rw [step_cons hh]
  show (s.setHost rest).writeCmd ((c.setWidth 64).setWidth 32) = _
  rw [hc]

/-- Settles O8: by O2 these are the words that decode to no command. -/
theorem illegalCommandFaults : Obligations.IllegalCommandFaults := by
  unfold Obligations.IllegalCommandFaults
  intro s c rest hh hi hc
  obtain ⟨_, _, _, _, _, hillegal⟩ := commandWordsExact c
  exact Answers.of_raise
    ((step_writeCmd hh).trans (State.writeCmd_illegal (s := s.setHost rest) hi (hillegal.2 hc)))

/-! The length checks of PAD and HASH (R245 to R247). -/

/-- The outcomes of the length checks, in the order of 60_exceptions.md R251. -/
theorem State.checkLength_cases (s : State) :
    (2 ^ 61 ≤ s.mlen.toNat ∧ s.checkLength = some .lengthOverflow) ∨
    (s.mlen.toNat < 2 ^ 61 ∧ exceeds s.par.msgBytes s.mlen.toNat = true ∧ s.checkLength = some .messageRange) ∨
    (s.mlen.toNat < 2 ^ 61 ∧ exceeds s.par.msgBytes s.mlen.toNat = false ∧
      exceeds s.par.pbBytes (plenOf s.mlen.toNat) = true ∧ s.checkLength = some .padBufferExhausted) ∨
    s.checkLength = none := by
  unfold State.checkLength
  split_ifs with hlen hmsg hpb
  · exact .inl ⟨hlen, rfl⟩
  · exact .inr (.inl ⟨Nat.lt_of_not_le hlen, hmsg, rfl⟩)
  · exact .inr (.inr (.inl ⟨Nat.lt_of_not_le hlen, Bool.eq_false_of_not_eq_true hmsg, hpb, rfl⟩))
  · exact .inr (.inr (.inr rfl))

theorem State.checkLength_eq_lengthOverflow (s : State) :
    s.checkLength = some .lengthOverflow ↔ 2 ^ 61 ≤ s.mlen.toNat := by
  rcases s.checkLength_cases with ⟨hl, e⟩ | ⟨hl, _, e⟩ | ⟨hl, _, _, e⟩ | e
  · exact iff_of_true e hl
  · exact iff_of_false (by simp [e]) (Nat.not_le.2 hl)
  · exact iff_of_false (by simp [e]) (Nat.not_le.2 hl)
  · exact iff_of_false (by simp [e]) (Nat.not_le.2 (s.checkLength_none.1 e).1)

theorem State.checkLength_eq_messageRange (s : State) :
    s.checkLength = some .messageRange ↔
      s.mlen.toNat < 2 ^ 61 ∧ exceeds s.par.msgBytes s.mlen.toNat = true := by
  rcases s.checkLength_cases with ⟨hl, e⟩ | ⟨hl, hm, e⟩ | ⟨_, hm, _, e⟩ | e
  · exact iff_of_false (by simp [e]) fun h => Nat.not_lt.2 hl h.1
  · exact iff_of_true e ⟨hl, hm⟩
  · exact iff_of_false (by simp [e]) fun h => Bool.eq_false_iff.1 hm h.2
  · exact iff_of_false (by simp [e]) fun h => Bool.eq_false_iff.1 (s.checkLength_none.1 e).2.1 h.2

theorem State.checkLength_eq_padBufferExhausted (s : State) :
    s.checkLength = some .padBufferExhausted ↔
      s.mlen.toNat < 2 ^ 61 ∧ exceeds s.par.msgBytes s.mlen.toNat = false ∧
        exceeds s.par.pbBytes (plenOf s.mlen.toNat) = true := by
  rcases s.checkLength_cases with ⟨hl, e⟩ | ⟨_, hm, e⟩ | ⟨hl, hm, hp, e⟩ | e
  · exact iff_of_false (by simp [e]) fun h => Nat.not_lt.2 hl h.1
  · exact iff_of_false (by simp [e]) fun h => Bool.eq_false_iff.1 h.2.1 hm
  · exact iff_of_true e ⟨hl, hm, hp⟩
  · exact iff_of_false (by simp [e]) fun h => Bool.eq_false_iff.1 (s.checkLength_none.1 e).2.2 h.2.2

/-- PAD and HASH are issued with the same checks; accepted, they make the engine busy. -/
theorem exec_padOrHash {i : Instr} (hi : i = .pad ∨ i = .hash) (s : State) :
    ∃ a, exec i s = .next (s.issue s.checkLength a) ∧ a.busy = true ∧ a.fcause = s.fcause := by
  rcases hi with rfl | rfl
  · exact ⟨_, rfl, rfl, rfl⟩
  · exact ⟨_, rfl, rfl, rfl⟩

theorem exec_padOrHash_refused {i : Instr} {s : State} {c : Cause} (hi : i = .pad ∨ i = .hash) (hs : s.idle = true)
    (hc : s.checkLength = some c) : exec i s = .next (s.raise c) := by
  obtain ⟨a, ha, _⟩ := exec_padOrHash hi s
  rw [ha, State.issue_refused a hs hc]

theorem exec_padOrHash_fcause {i : Instr} {s : State} {c : Cause} (hi : i = .pad ∨ i = .hash) (hs : s.idle = true)
    (hc : s.checkLength ≠ some c) : Answers (exec i s) fun t => t.fcause = c.code → s.fcause = c.code := by
  obtain ⟨a, ha, _, hfc⟩ := exec_padOrHash hi s
  exact ⟨_, ha, State.issue_fcause_eq hs hfc hc⟩

/-- The lengths whose padding is one block (41_padding.md R141). -/
theorem plenOf_le_64_iff (L : Nat) : plenOf L ≤ 64 ↔ L ≤ 55 := by
  unfold plenOf
  omega

/-- Settles O9: each length is refused by the check of its range, and one block of Padded Buffer takes 55 bytes. -/
theorem lengthChecksFault : Obligations.LengthChecksFault := by
  unfold Obligations.LengthChecksFault
  refine ⟨fun i s hi hs => ⟨fun hl => ?overflow, fun hl => ?noOverflow, fun n hn hl hm => ?range,
    fun n hn hl hm hp => ?exhausted, fun hn => ?unboundedMsg, fun hn => ?unboundedPB⟩,
    fun i s hi hs hl hm hn => ?smallest⟩
  case overflow =>
    exact Answers.of_raise (exec_padOrHash_refused hi hs (s.checkLength_eq_lengthOverflow.2 hl))
  case noOverflow =>
    refine exec_padOrHash_fcause (c := .lengthOverflow) hi hs fun h => ?_
    exact absurd hl (Nat.not_lt.2 (s.checkLength_eq_lengthOverflow.1 h))
  case range =>
    refine Answers.of_raise (exec_padOrHash_refused hi hs (s.checkLength_eq_messageRange.2 ⟨hl, ?_⟩))
    rw [hn, exceeds_some]
    exact hm
  case exhausted =>
    refine Answers.of_raise (exec_padOrHash_refused hi hs (s.checkLength_eq_padBufferExhausted.2 ⟨hl, hm, ?_⟩))
    rw [hn, exceeds_some]
    exact hp
  case unboundedMsg =>
    refine exec_padOrHash_fcause (c := .messageRange) hi hs fun h => ?_
    have hexc := (s.checkLength_eq_messageRange.1 h).2
    rw [hn] at hexc
    exact Bool.false_ne_true hexc
  case unboundedPB =>
    refine exec_padOrHash_fcause (c := .padBufferExhausted) hi hs fun h => ?_
    have hexc := (s.checkLength_eq_padBufferExhausted.1 h).2.2
    rw [hn] at hexc
    exact Bool.false_ne_true hexc
  case smallest =>
    have hexc : exceeds s.par.pbBytes (plenOf s.mlen.toNat) = true ↔ ¬ s.mlen.toNat ≤ 55 := by
      rw [hn, exceeds_some, ← plenOf_le_64_iff, Nat.not_le]
    by_cases h55 : s.mlen.toNat ≤ 55
    · obtain ⟨a, ha, hb, _⟩ := exec_padOrHash hi s
      have hc : s.checkLength = none :=
        s.checkLength_none.2 ⟨hl, hm, Bool.eq_false_of_not_eq_true fun h => hexc.1 h h55⟩
      rw [State.issue_accepted a hs hc] at ha
      exact ⟨a, ha, iff_of_true hb h55⟩
    · have hc := s.checkLength_eq_padBufferExhausted.2 ⟨hl, hm, hexc.2 h55⟩
      exact ⟨_, exec_padOrHash_refused hi hs hc, iff_of_false nofun h55⟩

/-! The operand checks of SCHEDULE and COMPRESS (R248, R249). -/

theorem State.checkBlock_of_noBuffer {s : State} (hv : s.pbv = false) : s.checkBlock = some .undefinedOperand := by
  simp [State.checkBlock, hv]

theorem State.checkBlock_of_noBlock {s : State} (hv : s.pbv = true) (ha : s.plen.toNat / 64 ≤ s.arg.toNat) :
    s.checkBlock = some .blockIndexRange := by
  simp [State.checkBlock, hv, ha]

theorem State.checkOperands_cases (s : State) :
    s.checkOperands = none ∨ s.checkOperands = some .undefinedOperand := by
  unfold State.checkOperands
  split_ifs
  · exact .inr rfl
  · exact .inl rfl

theorem State.checkOperands_of_undef {s : State}
    (h : (∃ j : Fin 8, s.h[j] = none) ∨ (∃ i : Fin 64, s.w[i] = none)) :
    s.checkOperands = some .undefinedOperand := by
  refine s.checkOperands_cases.resolve_left fun hnone => ?_
  obtain ⟨hh, hw⟩ := s.checkOperands_none.1 hnone
  rcases h with ⟨j, hj⟩ | ⟨i, hi⟩
  · exact (allDefined_iff_ne_none s.h).1 hh j hj
  · exact (allDefined_iff_ne_none s.w).1 hw i hi

theorem State.checkLength_ne_undefinedOperand (s : State) : s.checkLength ≠ some .undefinedOperand := by
  rcases s.checkLength_cases with ⟨_, e⟩ | ⟨_, _, e⟩ | ⟨_, _, _, e⟩ | e <;> simp [e]

/-- Settles O10: the checks of SCHEDULE and COMPRESS, and those of the other commands, which have no such outcome. -/
theorem operandChecksFault : Obligations.OperandChecksFault := by
  unfold Obligations.OperandChecksFault
  refine fun s hs => ⟨fun hv => ?noBuffer, fun hv ha => ?noBlock, fun hu => ?undef, fun i hi => ?others⟩
  case noBuffer =>
    exact Answers.of_raise (congrArg Host.Outcome.next (State.issue_refused _ hs (State.checkBlock_of_noBuffer hv)))
  case noBlock =>
    exact Answers.of_raise (congrArg Host.Outcome.next (State.issue_refused _ hs (State.checkBlock_of_noBlock hv ha)))
  case undef =>
    exact Answers.of_raise (congrArg Host.Outcome.next (State.issue_refused _ hs (State.checkOperands_of_undef hu)))
  case others =>
    rcases hi with rfl | hi
    · exact ⟨_, execInit_accepted hs, id⟩
    · exact exec_padOrHash_fcause (c := .undefinedOperand) hi hs s.checkLength_ne_undefinedOperand

/-! The faulted engine (R252, R256). -/

theorem State.writeReg_faulted {s : State} (n : Nat) (x : BitVec 64) (hf : s.fault = true) :
    s.writeReg n x = .next s := by
  rcases s.writeReg_cases n x with ⟨_, e⟩ | ⟨_, t, e, _⟩ | ⟨_, e⟩
  · obtain ⟨k, t, hk, _⟩ := s.writeCmd_cases (x.setWidth 32)
    rw [e, hk, State.issue_faulted t hf]
  · rw [e, State.whenIdle_faulted t hf]
  · exact e

/-- Settles O12: the ENGINE's turn and every write answer the state unchanged, a read records its value, and RESET leaves
the reset values. -/
theorem faultedUntilReset : Obligations.FaultedUntilReset := by
  unfold Obligations.FaultedUntilReset
  refine fun s hf hb => ⟨fun hh => (step_nil hh).trans (State.engineTurn_idle hb), fun e rest hh =>
    ⟨?noEffect, ?reads, ?reset⟩⟩
  case noEffect =>
    rintro (rfl | ⟨n, x, rfl⟩ | ⟨a, b, rfl⟩)
    · exact (step_cons hh).trans (State.engineTurn_idle (s := s.setHost rest) hb)
    · exact (step_cons hh).trans (State.writeReg_faulted (s := s.setHost rest) n x hf)
    · exact (step_cons hh).trans
        (congrArg Host.Outcome.next (State.writeMsg_no_effect (s := s.setHost rest) b (.inr hf)))
  case reads =>
    rintro n (rfl | rfl | rfl | rfl)
    · exact ⟨_, step_cons hh, rfl⟩
    · exact ⟨_, step_cons hh, rfl⟩
    · exact ⟨_, step_cons hh, rfl⟩
    · exact ⟨_, step_wait_done hh hb, rfl⟩
  case reset =>
    rintro rfl
    exact ⟨_, step_cons hh, rfl, rfl, rfl⟩

/-- Settles O13: of the ways a step can go, only RESET changes what a faulted engine has recorded. -/
theorem faultBitsNeverCleared : Obligations.FaultBitsNeverCleared := by
  unfold Obligations.FaultBitsNeverCleared
  intro s t hst hf hr
  cases step_cases hst with
  | @engine l _ _ h =>
    obtain ⟨u, hu, ho⟩ := engineTurn_outside (s.setHost l)
    cases hu.symm.trans h
    exact ⟨ho.fault.trans hf, ho.fcause⟩
  | @command rest x _ _ h =>
    obtain ⟨k, u, hu, _⟩ := (s.setHost rest).writeCmd_cases (x.setWidth 32)
    cases hu.symm.trans h
    rw [State.issue_faulted (s := s.setHost rest) u hf]
    exact ⟨hf, rfl⟩
  | @write rest _ a =>
    rw [State.whenIdle_faulted (s := s.setHost rest) a hf]
    exact ⟨hf, rfl⟩
  | nothing => exact ⟨hf, rfl⟩
  | read => exact ⟨hf, rfl⟩
  | @reset rest hh => exact absurd hh (hr rest)

end Sys2Proof.Machine
end
